-- ==== Sys2Proof/Word.lean ====
section
/-! DEFINITION. The widths of the machine's data: registers, buffer elements, and the ternary alphabet of symbols. -/

namespace Sys2Proof

/-- A host register and every index: 32 bits (00_scope.md R5, `REG_W`, `IDX_W`). -/
abbrev Word := BitVec 32

/-- One IBUF element (R5, `BIT_W`; R6). -/
abbrev Bit := BitVec 1

/-- One OBUF element, the 2-bit code of a symbol (R5, `SYM_W`; R63). -/
abbrev SymCode := BitVec 2

/-- A symbol: an element of the ternary alphabet -1, 0, +1 (00_scope.md R6). Never confused with its 2-bit code. -/
inductive LineSymbol where
  | minus
  | zero
  | plus
deriving DecidableEq, Repr, Inhabited

end Sys2Proof
end

