-- ==== Sys2Proof/Syntax.lean ====
section
/-! DEFINITION. The commands of the block: one constructor per row of spec/opcode_table.json (30_encoding.md R61,
R62). -/

namespace Sys2Proof

/-- A command in the format CMD (30_encoding.md R60): the operation that KIND[3:0] selects, with its operand
`len` = LEN[31:0] (R64). The frame itself, IBUF[0 .. len-1], is read from the machine. The reserved codes name no
operation and have no operand; a START with one raises InvalidKind (R62, R81). -/
inductive Instr where
  | nrz (len : Word)
  | nrzl (len : Word)
  | nrzi (len : Word)
  | ami (len : Word)
  | pst (len : Word)
  | man (len : Word)
  | dman (len : Word)
  | b8zs (len : Word)
  | hdb3 (len : Word)
  | reserved9
  | reserved10
  | reserved11
  | reserved12
  | reserved13
  | reserved14
  | reserved15
deriving DecidableEq, Repr

end Sys2Proof
end

