-- ==== Sys2Proof/Decode.lean ====
section
/-! DEFINITION. Decoding a command from the pair of register words (KIND, LEN) (30_encoding.md R60), total, and the
encoder after it. KIND[3:0] alone selects (`mask = 0xF`, R61); bits 31:4 of a KIND word are ignored (R12, R65). -/

namespace Sys2Proof

/-- Why a list of words is no command. Nothing of KIND is rejected here: its sixteen codes are the sixteen rows of
the opcode table, and a reserved one is rejected by the machine at START (R62, R81). -/
inductive DecodeError where
  /-- There is no KIND word. -/
  | missingKind
  /-- There is a KIND word and no LEN word. -/
  | missingLen
  /-- Words follow the LEN word: a command is exactly the pair (R60). -/
  | trailingWords
deriving DecidableEq, Repr

/-- The selector KIND[3:0] of a KIND word (R12, R60). -/
def kindField (kind : Word) : BitVec 4 := kind.setWidth 4

/-- The command that a selector and a LEN value name (R61, R62). -/
def commandOf (k : BitVec 4) (len : Word) : Instr :=
  match k.toNat with
  | 0 => .nrz len
  | 1 => .nrzl len
  | 2 => .nrzi len
  | 3 => .ami len
  | 4 => .pst len
  | 5 => .man len
  | 6 => .dman len
  | 7 => .b8zs len
  | 8 => .hdb3 len
  | 9 => .reserved9
  | 10 => .reserved10
  | 11 => .reserved11
  | 12 => .reserved12
  | 13 => .reserved13
  | 14 => .reserved14
  | _ => .reserved15

/-- The decoder: the words of a command, KIND first (register 1), LEN second (register 2) (R60). -/
def decode : List Word → Except DecodeError Instr
  | [] => .error .missingKind
  | [_] => .error .missingLen
  | [kind, len] => .ok (commandOf (kindField kind) len)
  | _ :: _ :: _ :: _ => .error .trailingWords

/-- The code of a command in KIND[3:0] (R61, R62). -/
def Instr.code : Instr → BitVec 4
  | .nrz _ => 0b0000#4
  | .nrzl _ => 0b0001#4
  | .nrzi _ => 0b0010#4
  | .ami _ => 0b0011#4
  | .pst _ => 0b0100#4
  | .man _ => 0b0101#4
  | .dman _ => 0b0110#4
  | .b8zs _ => 0b0111#4
  | .hdb3 _ => 0b1000#4
  | .reserved9 => 0b1001#4
  | .reserved10 => 0b1010#4
  | .reserved11 => 0b1011#4
  | .reserved12 => 0b1100#4
  | .reserved13 => 0b1101#4
  | .reserved14 => 0b1110#4
  | .reserved15 => 0b1111#4

/-- The operand `len` of a command (R64); a reserved code has none, and its LEN word is written as 0. -/
def Instr.len : Instr → Word
  | .nrz len | .nrzl len | .nrzi len | .ami len | .pst len | .man len | .dman len | .b8zs len | .hdb3 len => len
  | .reserved9 | .reserved10 | .reserved11 | .reserved12 | .reserved13 | .reserved14 | .reserved15 => 0#32

/-- The encoder: the KIND word (bits 31:4 zero) and the LEN word of a command (R60, R65). -/
def encode (i : Instr) : List Word :=
  [i.code.setWidth 32, i.len]

/-- The words of a command whose bits are `w`, bit 0 the least significant bit of the KIND word and bit 32 that of
the LEN word; only the low `nbits` bits count, and every bit above them is 0. -/
def tableWords (nbits w : Nat) : List Word :=
  [BitVec.ofNat 32 (w % 2 ^ nbits), BitVec.ofNat 32 (w % 2 ^ nbits / 2 ^ 32)]

/-- What the decoder reads from a word numbered as spec/opcode_table.json numbers it. -/
def decodeTableWord (nbits w : Nat) : Option Instr :=
  (decode (tableWords nbits w)).toOption

end Sys2Proof
end

