-- ==== Sys2Proof/Machine/Registers.lean ====
section
/-! DEFINITION. The types of the registers, of the buffers and of the host's accesses (10_state.md, 20_memory.md). -/

namespace Sys2Proof.Machine

/-- STATUS.ST, with its codes in this order from 0 (10_state.md R14). -/
inductive St where
  /-- 0: no operation since reset. -/
  | idle
  /-- 1: an operation is running. -/
  | busy
  /-- 2: the last operation ended with a valid result. -/
  | done
  /-- 3: the last operation ended with a fault. -/
  | fault
deriving DecidableEq, Repr, Inhabited

/-- STATUS.CAUSE, with its codes in this order from 0 (R14). -/
inductive Cause where
  | none
  | invalidInput
  | internalInvariantViolation
  | invalidKind
deriving DecidableEq, Repr, Inhabited

/-- STATUS.INFO, with its codes in this order from 0 (R14); code 7 is never produced and has no constructor. -/
inductive Info where
  | none
  | badBit
  | empty
  | noPreceding
  | lenRange
  | runShape
  | precedingZero
deriving DecidableEq, Repr, Inhabited

/-- The STATUS register, by its fields (R14). Bits 31:7 read 0 and no access writes them, so they are not stored. -/
structure Status where
  st : St
  cause : Cause
  info : Info
deriving DecidableEq, Repr, Inhabited

/-- PH: P1 is the line coding pass, P2 the substitution pass (R16). -/
inductive Phase where
  | p1
  | p2
deriving DecidableEq, Repr, Inhabited

/-- PCLASS, the class of an HDB3 run (R16, 45_hdb3.md R153). -/
inductive Parity where
  | even
  | odd
deriving DecidableEq, Repr, Inhabited

/-- The ten working registers, hidden from the host (10_state.md R16). -/
structure Work where
  /-- OPK: the KIND latched at START. -/
  opk : BitVec 4
  /-- N: the LEN latched at START. -/
  n : Word
  /-- PH: the pass. -/
  ph : Phase
  /-- IDX: the index of the next bit (P1) or the next symbol (P2) (R22). -/
  idx : Word
  /-- POL: 0 NextPulsePositive, 1 NextPulseNegative (R18). -/
  pol : Bit
  /-- LVL: the previous level of NRZI and DMAN. -/
  lvl : Bit
  /-- ZCNT: the zero symbols in a row seen in P2. -/
  zcnt : BitVec 3
  /-- PVALID: an HDB3 run has been resolved in this operation (R19). -/
  pvalid : Bool
  /-- PSTART: the start index of the last resolved HDB3 run (R19). -/
  pstart : Word
  /-- PCLASS: the class of that run; recorded and never consulted (R19). -/
  pclass : Parity
deriving DecidableEq, Repr, Inhabited

/-- A buffer of `w`-bit elements: (index, element) pairs in strictly rising order of index. An unlisted index holds
the unspecified value it had after reset (20_memory.md R40, R46). -/
abbrev Buf (w : Nat) := List (Nat × BitVec w)

/-- One access of the host (20_memory.md R43, R44, R45), or RESET (70_reset_and_hazards.md R190). -/
inductive HostAccess where
  /-- HostRegRead(r). -/
  | regRead (r : Nat)
  /-- HostRegWrite(r, v). -/
  | regWrite (r : Nat) (v : Word)
  /-- HostIbufRead(i). -/
  | ibufRead (i : Nat)
  /-- HostIbufWrite(i, b). -/
  | ibufWrite (i : Nat) (b : Bit)
  /-- HostObufRead(j). -/
  | obufRead (j : Nat)
  /-- A host write to OBUF, which does nothing (R45). -/
  | obufWrite (j : Nat) (c : SymCode)
  /-- RESET. -/
  | reset
deriving DecidableEq, Repr

/-- One entry of the interleaving of host and encoder (20_memory.md R51): a host access, or a turn of the encoder. -/
inductive Input where
  | access (a : HostAccess)
  | encoderTurn
deriving DecidableEq, Repr

/-- The value that a host read returned: a register, an IBUF bit, or an OBUF code. -/
inductive Reply where
  | reg (v : Word)
  | ibuf (b : Bit)
  | obuf (c : SymCode)
deriving DecidableEq, Repr

end Sys2Proof.Machine
end

