-- ==== Sys2Proof/Config.lean ====
section
/-! DEFINITION. What an implementation fixes (N_MAX) and the free values of the spec. The `opaque` constants have no
body: nothing can be proved of their values, so a claim holds whatever they are. -/

namespace Sys2Proof

/-- How far N_MAX lies below the largest capacity the spec allows, 2^31 - 1 (00_scope.md R5; log 4). -/
opaque Config.capacitySlack : Fin 2147483647

/-- N_MAX, the capacity of IBUF: any number with 1 <= N_MAX <= 2^31 - 1 (R5, open parameter; log 4). -/
def Config.nMax : Nat := 2147483647 - Config.capacitySlack.val

/-- The bit that IBUF element `i` holds after the reset numbered `epoch` until the host writes it: any value,
stable (20_memory.md R46, U9; log 5). -/
opaque Config.ibufAtReset (epoch i : Nat) : Bit

/-- The code that OBUF element `j` holds after the reset numbered `epoch` until the encoder writes it: any value
(10_state.md R24; log 6). No read that the host can make returns it. -/
opaque Config.obufAtReset (epoch j : Nat) : SymCode

/-- The value of the host's unspecified OBUF read numbered `k`: any value, a fresh draw each time (R46, U8; log 6). -/
opaque Config.obufDraw (k : Nat) : SymCode

/-- The working registers after the reset numbered `epoch`: any values (R24, U10; log 7). -/
opaque Config.workAtReset (epoch : Nat) : Machine.Work

end Sys2Proof
end

