-- ==== Sys2Proof/Machine/State.lean ====
section
/-! DEFINITION. The state of the block, its faults and refusals, and the state after reset (10_state.md). -/

namespace Sys2Proof.Machine

/-- Every piece of state the spec gives the block (10_state.md R10 to R21), the configuration N_MAX, and the model's
own bookkeeping of the host (`inputs`, `replies`) and of free draws (`draws`, `resets`). -/
structure State where
  /-- KIND[3:0], register 1 (R12). -/
  kind : BitVec 4
  /-- LEN, register 2 (R13). -/
  len : Word
  /-- STATUS, register 3 (R14). -/
  status : Status
  /-- OLEN, register 4 (R15). -/
  olen : Word
  /-- The ten working registers (R16). -/
  work : Work
  /-- IBUF: the elements written since reset (R20). -/
  ibuf : Buf 1
  /-- OBUF: the elements written since reset (R21). -/
  obuf : Buf 2
  /-- N_MAX (R5): configuration, which no step changes; log 4. -/
  nMax : Nat
  /-- The model's own: what host and encoder do next, in their one interleaving (R51); log 2. -/
  inputs : List Input
  /-- The model's own: what the host's reads returned, oldest first; log 3. -/
  replies : List Reply
  /-- The model's own: how many unspecified OBUF reads there have been (R46); log 6. -/
  draws : Nat
  /-- The model's own: how many RESET events there have been; log 18. -/
  resets : Nat
deriving DecidableEq, Repr

/-- Why the machine stops. A fault OF THE SPEC (60_exceptions.md R170) is none of these: it is a next state with
ST = FAULT. -/
inductive Fault where
  /-- ST = BUSY and none of the four encoder steps is enabled: raised by the encoder's step. The spec says this
  cannot be (40_sequencer.md R91); safe, in states no run reaches; log 10. -/
  | noStepEnabled
  /-- The symbol before a block has the code 0b10, which the encoder never writes (30_encoding.md R63) and for which
  the pattern tables have no row: raised by a replacement. Safe, in states no run reaches; log 11. -/
  | obufNotASymbol
deriving DecidableEq, Repr

/-- What the model gives no meaning to. -/
inductive Refusal where
  /-- An instruction without a meaning: raised by no arm of this model. Safe. -/
  | notModelled (mnemonic : String)
  /-- A host access to a register number above 4 (10_state.md R10, U6): raised by the host port. Safe; log 13. -/
  | hostRegisterNumber (r : Nat)
  /-- A host access to an IBUF index >= N_MAX (20_memory.md R44, U6): raised by the host port. Safe; log 13. -/
  | hostIbufIndex (i : Nat)
  /-- A host access to an OBUF index >= 2 * N_MAX (20_memory.md R45, U6): raised by the host port. Safe; log 13. -/
  | hostObufIndex (j : Nat)
deriving DecidableEq, Repr

/-- A block of capacity `cap` after its reset numbered `epoch`, with nothing for the host to do
(70_reset_and_hazards.md R190, 10_state.md R24). -/
def State.afterReset (cap epoch : Nat) : State where
  kind := 0#4
  len := 0#32
  status := ⟨.idle, .none, .none⟩
  olen := 0#32
  work := Config.workAtReset epoch
  ibuf := []
  obuf := []
  nMax := cap
  inputs := []
  replies := []
  draws := 0
  resets := epoch

/-- The machine right after reset. -/
def State.reset : State := State.afterReset Config.nMax 0

end Sys2Proof.Machine
end

