-- ==== Sys2Proof/Machine/Buffer.lean ====
section
/-! DEFINITION. The two buffers as data: one canonical form, a lookup and a write (20_memory.md R40, R46, R49). -/

namespace Sys2Proof.Machine

/-- The canonical form of a buffer: indexes strictly rising. An unlisted element holds a free value, which no entry
can be seen to equal (log 8). -/
abbrev bufWf {w : Nat} (b : Buf w) : Prop := b.Pairwise (fun x y => x.1 < y.1)

/-- The element at index `i`, if anything wrote it since reset. -/
def bufLookup {w : Nat} : Buf w → Nat → Option (BitVec w)
  | [], _ => none
  | (a, v) :: rest, i => if a = i then some v else bufLookup rest i

/-- Store `v` at index `i` and change no other element (R49). -/
def bufWrite {w : Nat} : Buf w → Nat → BitVec w → Buf w
  | [], i, v => [(i, v)]
  | (a, x) :: rest, i, v =>
    if i < a then (i, v) :: (a, x) :: rest
    else if a = i then (i, v) :: rest
    else (a, x) :: bufWrite rest i v

/-- Both buffers of a state are in canonical form. -/
abbrev Memory.wf (s : State) : Prop := bufWf s.ibuf ∧ bufWf s.obuf

end Sys2Proof.Machine
end

