-- ==== Sys2Proof/Machine/Operands.lean ====
section
/-! DEFINITION. The operands of an operation: the frame bits in IBUF, the symbols in OBUF, and the symbol code
(30_encoding.md R63, R64; 20_memory.md R41, R42). -/

namespace Sys2Proof

/-- The 2-bit two's-complement code of a symbol (R63). -/
def LineSymbol.code : LineSymbol → SymCode
  | .zero => 0b00#2
  | .plus => 0b01#2
  | .minus => 0b11#2

/-- The symbol of a code; 0b10 is the code of none (R63). -/
def symOfCode (c : SymCode) : Option LineSymbol :=
  if c = 0b00#2 then some .zero
  else if c = 0b01#2 then some .plus
  else if c = 0b11#2 then some .minus
  else none

/-- `neg(v)`, arithmetic negation of a symbol (00_scope.md section 8). -/
def LineSymbol.neg : LineSymbol → LineSymbol
  | .minus => .plus
  | .zero => .zero
  | .plus => .minus

/-- `not1(b)`, the complement of a bit (00_scope.md section 8). -/
def not1 (b : Bit) : Bit := ~~~b

end Sys2Proof

namespace Sys2Proof.Machine

/-- IDX as an index (10_state.md R22). -/
def State.pos (s : State) : Nat := s.work.idx.toNat

/-- `MemRead(IBUF, i)`: the stored bit; an element never written since reset holds a free but stable bit (20_memory.md
R41, R46). -/
def State.ibufRead (s : State) (i : Nat) : Bit :=
  (bufLookup s.ibuf i).getD (Config.ibufAtReset s.resets i)

/-- The code stored at OBUF index `j`; an element never written since reset holds a free code (R42; 10_state.md R24). -/
def State.obufRead (s : State) (j : Nat) : SymCode :=
  (bufLookup s.obuf j).getD (Config.obufAtReset s.resets j)

/-- `MemWrite(OBUF, j, v)`: store the code of symbol `v` (20_memory.md R42). -/
def State.putSymbol (s : State) (j : Nat) (v : LineSymbol) : State :=
  { s with obuf := bufWrite s.obuf j v.code }

/-- `OBUF[j .. j+k-1] <- pattern`: one element write for each symbol (00_scope.md section 8). -/
def State.putSymbols (s : State) (j : Nat) : List LineSymbol → State
  | [] => s
  | v :: rest => (s.putSymbol j v).putSymbols (j + 1) rest

/-- `MemWrite(IBUF, i, b)`, the host's only (20_memory.md R44). -/
def State.putBit (s : State) (i : Nat) (b : Bit) : State :=
  { s with ibuf := bufWrite s.ibuf i b }

/-- The frame IBUF[0 .. n-1] of an operation (R20, R64). -/
def State.frame (s : State) (n : Nat) : List Bit :=
  (List.range n).map s.ibufRead

/-- The result OBUF[0 .. OLEN-1], as codes (R21). -/
def State.result (s : State) : List SymCode :=
  (List.range s.olen.toNat).map s.obufRead

end Sys2Proof.Machine
end

