-- ==== Sys2Proof/Machine/Flags.lean ====
section
/-! DEFINITION. The one-bit state and the status fields that steer the block (10_state.md R14, R23): the codes of
STATUS, the alternation machine over POL, the level over LVL, and the zero counter ZCNT. -/

namespace Sys2Proof.Machine

/-- The code of STATUS.ST (R14, R65). -/
def St.code : St → Nat
  | .idle => 0
  | .busy => 1
  | .done => 2
  | .fault => 3

/-- The code of STATUS.CAUSE (R14, R65). -/
def Cause.code : Cause → Nat
  | .none => 0
  | .invalidInput => 1
  | .internalInvariantViolation => 2
  | .invalidKind => 3

/-- The code of STATUS.INFO (R14, R65). -/
def Info.code : Info → Nat
  | .none => 0
  | .badBit => 1
  | .empty => 2
  | .noPreceding => 3
  | .lenRange => 4
  | .runShape => 5
  | .precedingZero => 6

/-- The STATUS word, ST + 4 * CAUSE + 16 * INFO; bits 31:7 are 0 (R14, R65). -/
def Status.word (t : Status) : Word :=
  BitVec.ofNat 32 (t.st.code + 4 * t.cause.code + 16 * t.info.code)

/-- STATUS.ST = BUSY. -/
def State.busy (s : State) : Bool := s.status.st == .busy

/-- The alternation machine (42_bipolar.md R110): the symbol emitted and the next POL. -/
def pulse (active : Bool) (pol : Bit) : LineSymbol × Bit :=
  if active then
    if pol = 0#1 then (.plus, 1#1) else (.minus, 0#1)
  else (.zero, pol)

/-- The level map of the Manchester family (43_manchester.md R122): low is -1 and high is +1. -/
def lvl2sym (b : Bit) : LineSymbol := if b = 0#1 then .minus else .plus

/-- IDX, advanced past the element a step processed (10_state.md R22). -/
def State.advance (s : State) : State :=
  { s with work := { s.work with idx := s.work.idx + 1#32 } }

/-- POL <- p. -/
def State.setPol (s : State) (p : Bit) : State :=
  { s with work := { s.work with pol := p } }

/-- LVL <- l. -/
def State.setLvl (s : State) (l : Bit) : State :=
  { s with work := { s.work with lvl := l } }

/-- ZCNT <- z. -/
def State.setZcnt (s : State) (z : BitVec 3) : State :=
  { s with work := { s.work with zcnt := z } }

/-- PVALID <- 1, PSTART <- start, PCLASS <- cls: the HDB3 record (45_hdb3.md R157). -/
def State.setRecord (s : State) (start : Nat) (cls : Parity) : State :=
  { s with work := { s.work with pvalid := true, pstart := BitVec.ofNat 32 start, pclass := cls } }

end Sys2Proof.Machine
end

