-- ==== Sys2Proof/Machine/Ops.lean ====
section
/-! DEFINITION. The operations that several commands share: fault entry, START, the two passes and their ends
(40_sequencer.md, 60_exceptions.md). -/

namespace Sys2Proof.Machine

/-! ## Fault entry -/

/-- `raise F(info)`, the block's one way of taking an exception (60_exceptions.md R174): CAUSE, INFO and ST = FAULT are
recorded and nothing else changes. There is no return from it: only the next accepted START (`startCommand`) or RESET
leaves the FAULT state (R178). -/
def raiseFault (c : Cause) (i : Info) (s : State) : State :=
  { s with status := ⟨.fault, c, i⟩ }

/-! ## START -/

/-- The kinds whose first-element boundary rule needs a first element: NRZI, DMAN, B8ZS, HDB3 (40_sequencer.md R83). -/
def needsElement (code : BitVec 4) : Bool :=
  code == 2#4 || code == 6#4 || code == 7#4 || code == 8#4

/-- The three checks of START in their fixed order (R81, R82, R83; 60_exceptions.md R176): the first that fails. -/
def startCheck (cap : Nat) (i : Instr) : Option (Cause × Info) :=
  if 9 ≤ i.code.toNat then some (.invalidKind, .none)
  else if cap < i.len.toNat then some (.invalidInput, .lenRange)
  else if i.len = 0#32 ∧ needsElement i.code then some (.invalidInput, .empty)
  else none

/-- The working registers that an accepted START of `i` leaves (R84, 10_state.md R17). -/
def Work.initial (i : Instr) : Work where
  opk := i.code
  n := i.len
  ph := .p1
  idx := 0#32
  pol := 0#1
  lvl := 0#1
  zcnt := 0#3
  pvalid := false
  pstart := 0#32
  pclass := .even

/-- The first line of START: CAUSE <- 0, INFO <- 0, OLEN <- 0 (R80). -/
def clearOutcome (s : State) : State :=
  { s with status := ⟨s.status.st, .none, .none⟩, olen := 0#32 }

/-- START of command `i`, accepted when ST is not BUSY, as one event (R80): clear, check, then raise or initialise and
become BUSY (R84). -/
def startCommand (i : Instr) (s : State) : State :=
  match startCheck s.nMax i with
  | some (c, f) => raiseFault c f (clearOutcome s)
  | none => { clearOutcome s with work := Work.initial i, status := ⟨.busy, .none, .none⟩ }

/-! ## Pass P1 -/

/-- ST <- DONE with OLEN = `olen` (R86, R89). CAUSE and INFO are NONE while BUSY and stay so. -/
def finishWith (olen : Word) (s : State) : State :=
  { s with olen := olen, status := ⟨.done, s.status.cause, s.status.info⟩ }

/-- End of P1 of a one-level code without P2: OLEN <- N, DONE (R86). -/
def endOneLevel (s : State) : State := finishWith s.work.n s

/-- End of P1 of MAN and DMAN: OLEN <- 2 * N, DONE (R86). -/
def endTwoLevel (s : State) : State := finishWith (2#32 * s.work.n) s

/-- End of P1 of B8ZS and HDB3: PH <- P2, IDX <- 0, ZCNT <- 0 (R86). -/
def enterP2 (s : State) : State :=
  { s with work := { s.work with ph := .p2, idx := 0#32, zcnt := 0#3 } }

/-- Pass P1: a P1 step while IDX < N, which then advances IDX (R85), or the end of P1 when IDX = N (R86). -/
def passOne (codeBit endPass : State → State) (s : State) : Host.Outcome State Fault Refusal :=
  if s.work.idx.toNat < s.work.n.toNat then .next (codeBit s).advance
  else if s.work.idx = s.work.n then .next (endPass s)
  else .fault .noStepEnabled

/-! ## Pass P2 -/

/-- How the replacement of a block ends (44_b8zs.md R133, 45_hdb3.md R152). -/
inductive Replaced where
  /-- The pattern has been written. -/
  | wrote (s : State)
  /-- A fault of the spec is to be raised; nothing has been written. -/
  | raised (c : Cause) (i : Info)
  /-- No rule of the spec applies. -/
  | stuck (f : Fault)
deriving DecidableEq, Repr

/-- Every symbol of OBUF[s0 .. s0+L-1] is 0: the negation of the RUN_SHAPE test (44_b8zs.md R138, 45_hdb3.md R159). -/
def blockIsZero (L s0 : Nat) (s : State) : Bool :=
  (List.range L).all (fun k => s.obufRead (s0 + k) == 0b00#2)

/-- The tests of a replacement in their order, and the preceding symbol (44_b8zs.md R133, R134, R135, R138;
45_hdb3.md R152, R154, R155, R159): `write` gets the preceding symbol, which is +1 or -1. -/
def replaceBlock (L s0 : Nat) (write : LineSymbol → State → State) (s : State) : Replaced :=
  if s0 = 0 then .raised .invalidInput .noPreceding
  else if blockIsZero L s0 s then
    match symOfCode (s.obufRead (s0 - 1)) with
    | none => .stuck .obufNotASymbol
    | some .zero => .raised .internalInvariantViolation .precedingZero
    | some .minus => .wrote (write .minus s)
    | some .plus => .wrote (write .plus s)
  else .raised .internalInvariantViolation .runShape

/-- One P2 step at IDX = i < N (40_sequencer.md R87): `replace` gets the start i - L + 1 of the block that ends at i
(R88) and the state with ZCNT = 0; a raise leaves IDX where it is. -/
def scanStep (L : Nat) (replace : Nat → State → Replaced) (s : State) : Host.Outcome State Fault Refusal :=
  if s.obufRead s.pos ≠ 0b00#2 then .next (s.setZcnt 0#3).advance
  else if s.work.zcnt.toNat + 1 < L then .next (s.setZcnt (s.work.zcnt + 1#3)).advance
  else
    match replace (s.pos + 1 - L) (s.setZcnt 0#3) with
    | .wrote t => .next t.advance
    | .raised c i => .next (raiseFault c i (s.setZcnt 0#3))
    | .stuck f => .fault f

/-- Pass P2: a P2 step while IDX < N (R87), or the end of P2 when IDX = N: OLEN <- N, DONE (R89). -/
def passTwo (L : Nat) (replace : Nat → State → Replaced) (s : State) : Host.Outcome State Fault Refusal :=
  if s.work.idx.toNat < s.work.n.toNat then scanStep L replace s
  else if s.work.idx = s.work.n then .next (finishWith s.work.n s)
  else .fault .noStepEnabled

/-! ## The next event of a command -/

/-- A command whose operation is pass P1 alone: its START when ST is not BUSY, else its enabled step (R80, R85, R86).
PH = P2 belongs to no such kind (R86). -/
def singlePass (i : Instr) (codeBit endPass : State → State) (s : State) : Host.Outcome State Fault Refusal :=
  if s.busy then
    match s.work.ph with
    | .p1 => passOne codeBit endPass s
    | .p2 => .fault .noStepEnabled
  else .next (startCommand i s)

/-- A command with a substitution pass: its START when ST is not BUSY, else its enabled step in P1 or P2 (R80, R85,
R86, R87, R89). -/
def doublePass (i : Instr) (codeBit : State → State) (L : Nat) (replace : Nat → State → Replaced) (s : State) :
    Host.Outcome State Fault Refusal :=
  if s.busy then
    match s.work.ph with
    | .p1 => passOne codeBit enterP2 s
    | .p2 => passTwo L replace s
  else .next (startCommand i s)

/-- A reserved code: its START raises InvalidKind (30_encoding.md R62, 40_sequencer.md R81); no step of it exists. -/
def reservedCommand (i : Instr) (s : State) : Host.Outcome State Fault Refusal :=
  if s.busy then .fault .noStepEnabled else .next (startCommand i s)

end Sys2Proof.Machine
end

