-- ==== Sys2Proof/Machine/Bipolar.lean ====
section
/-! DEFINITION. The bipolar encoders AMI and Pseudoternary (42_bipolar.md), and the AMI step that B8ZS and HDB3 take
in pass P1 (R131, R151). -/

namespace Sys2Proof.Machine

/-- A P1 step of the alternation machine: `(OBUF[i], POL) <- pulse(active, POL)` (R110). -/
def pulseBit (active : Bool) (s : State) : State :=
  let out := pulse active s.work.pol
  (s.putSymbol s.pos out.1).setPol out.2

/-- The P1 step of AMI: a 1 carries the pulse (R111). -/
def amiBit (s : State) : State := pulseBit (s.ibufRead s.pos == 1#1) s

/-- The P1 step of Pseudoternary: a 0 carries the pulse (R112). -/
def pstBit (s : State) : State := pulseBit (s.ibufRead s.pos == 0#1) s

/-- AMI (R111). -/
def execAmi (len : Word) (s : State) : Host.Outcome State Fault Refusal :=
  singlePass (.ami len) amiBit endOneLevel s

/-- Pseudoternary (R112). -/
def execPst (len : Word) (s : State) : Host.Outcome State Fault Refusal :=
  singlePass (.pst len) pstBit endOneLevel s

end Sys2Proof.Machine
end

