-- ==== Sys2Proof/Machine/B8zs.lean ====
section
/-! DEFINITION. The B8ZS substitution engine (44_b8zs.md). -/

namespace Sys2Proof.Machine

/-- The pattern for the preceding symbol `p`: TOP for +1, BOTTOM for -1 (R136). -/
def b8zsPattern (p : LineSymbol) : List LineSymbol :=
  [.zero, .zero, .zero, p, p.neg, .zero, p.neg, p]

/-- The replacement of the block that starts at `s0` (R133 to R138). It writes OBUF[s0 .. s0+7] and nothing else. -/
def b8zsReplace (s0 : Nat) (s : State) : Replaced :=
  replaceBlock 8 s0 (fun p t => t.putSymbols s0 (b8zsPattern p)) s

/-- The P1 step of B8ZS: the AMI step, unchanged (R131). -/
def b8zsBit (s : State) : State := amiBit s

/-- B8ZS (R130): the AMI pass, then the scan for blocks of 8 (R132). -/
def execB8zs (len : Word) (s : State) : Host.Outcome State Fault Refusal :=
  doublePass (.b8zs len) b8zsBit 8 b8zsReplace s

end Sys2Proof.Machine
end

