-- ==== Sys2Proof/Machine/Hdb3.lean ====
section
/-! DEFINITION. The HDB3 substitution engine (45_hdb3.md). -/

namespace Sys2Proof.Machine

/-- The parity of an index or of a gap (R153). -/
def parityOf (x : Int) : Parity := if x % 2 = 1 then .odd else .even

/-- `gap`: the positions strictly between the previous run and this one, by the document's formula (R153). Exact, so
nothing wraps; it is never negative in a run (R160). -/
def hdb3Gap (s0 pstart : Nat) : Int := (s0 : Int) - ((pstart : Int) + 3) - 1

/-- The class of the run that starts at `s0` (R153): by its own index when it is the first, else by the gap. -/
def classify (s0 : Nat) (pvalid : Bool) (pstart : Nat) : Parity :=
  if pvalid then parityOf (hdb3Gap s0 pstart) else parityOf s0

/-- The pattern for a class and a preceding symbol: B00V for EVEN, 000V for ODD (R156). -/
def hdb3Pattern (cls : Parity) (p : LineSymbol) : List LineSymbol :=
  match cls with
  | .even => [p.neg, .zero, .zero, p.neg]
  | .odd => [.zero, .zero, .zero, p]

/-- The replacement of the run that starts at `s0` (R152 to R159). It writes OBUF[s0 .. s0+3] and the record. -/
def hdb3Replace (s0 : Nat) (s : State) : Replaced :=
  let cls := classify s0 s.work.pvalid s.work.pstart.toNat
  replaceBlock 4 s0 (fun p t => (t.putSymbols s0 (hdb3Pattern cls p)).setRecord s0 cls) s

/-- The P1 step of HDB3: the AMI step, unchanged (R151). -/
def hdb3Bit (s : State) : State := amiBit s

/-- HDB3 (R150): the AMI pass, then the scan for runs of 4. -/
def execHdb3 (len : Word) (s : State) : Host.Outcome State Fault Refusal :=
  doublePass (.hdb3 len) hdb3Bit 4 hdb3Replace s

end Sys2Proof.Machine
end

