-- ==== Sys2Proof/Machine/Manchester.lean ====
section
/-! DEFINITION. The Manchester family: two symbols for each bit (43_manchester.md). -/

namespace Sys2Proof.Machine

/-- Manchester: 1 gives (-1, +1), 0 gives (+1, -1) (R120). -/
def man (b : Bit) : LineSymbol × LineSymbol := if b = 1#1 then (.minus, .plus) else (.plus, .minus)

/-- The first-half level of Differential Manchester: a 0 repeats the previous level, a 1 inverts it (R121). -/
def dmanFirst (b lvl : Bit) : Bit := if b = 0#1 then lvl else not1 lvl

/-- Differential Manchester: the two symbols and the next LVL, the second-half level (R121, R122). -/
def dman (b lvl : Bit) : (LineSymbol × LineSymbol) × Bit :=
  let first := dmanFirst b lvl
  let second := not1 first
  ((lvl2sym first, lvl2sym second), second)

/-- `(OBUF[2i], OBUF[2i+1]) <- pair`, with i = IDX (40_sequencer.md R85). -/
def State.putPair (s : State) (pair : LineSymbol × LineSymbol) : State :=
  (s.putSymbol (2 * s.pos) pair.1).putSymbol (2 * s.pos + 1) pair.2

/-- The P1 step of Manchester (R120). -/
def manBit (s : State) : State := s.putPair (man (s.ibufRead s.pos))

/-- The P1 step of Differential Manchester (R121). -/
def dmanBit (s : State) : State :=
  let out := dman (s.ibufRead s.pos) s.work.lvl
  (s.putPair out.1).setLvl out.2

/-- Manchester (R120). -/
def execMan (len : Word) (s : State) : Host.Outcome State Fault Refusal :=
  singlePass (.man len) manBit endTwoLevel s

/-- Differential Manchester (R121). -/
def execDman (len : Word) (s : State) : Host.Outcome State Fault Refusal :=
  singlePass (.dman len) dmanBit endTwoLevel s

end Sys2Proof.Machine
end

