-- ==== Sys2Proof/Machine/Reserved.lean ====
section
/-! DEFINITION. The seven reserved codes of KIND: a START with one raises InvalidKind and runs nothing (30_encoding.md
R62, 40_sequencer.md R81, 60_exceptions.md R175). -/

namespace Sys2Proof.Machine

/-- KIND = 9 names no operation (R62). -/
def execReserved9 (s : State) : Host.Outcome State Fault Refusal :=
  reservedCommand .reserved9 s

/-- KIND = 10 names no operation (R62). -/
def execReserved10 (s : State) : Host.Outcome State Fault Refusal :=
  reservedCommand .reserved10 s

/-- KIND = 11 names no operation (R62). -/
def execReserved11 (s : State) : Host.Outcome State Fault Refusal :=
  reservedCommand .reserved11 s

/-- KIND = 12 names no operation (R62). -/
def execReserved12 (s : State) : Host.Outcome State Fault Refusal :=
  reservedCommand .reserved12 s

/-- KIND = 13 names no operation (R62). -/
def execReserved13 (s : State) : Host.Outcome State Fault Refusal :=
  reservedCommand .reserved13 s

/-- KIND = 14 names no operation (R62). -/
def execReserved14 (s : State) : Host.Outcome State Fault Refusal :=
  reservedCommand .reserved14 s

/-- KIND = 15 names no operation (R62). -/
def execReserved15 (s : State) : Host.Outcome State Fault Refusal :=
  reservedCommand .reserved15 s

end Sys2Proof.Machine
end

