-- ==== Sys2Proof/Machine/SimpleNrz.lean ====
section
/-! DEFINITION. The simple encoders NRZ, NRZ-L, NRZI (41_simple_nrz.md). -/

namespace Sys2Proof.Machine

/-- NRZ: 0 gives 0, 1 gives +1 (R100). -/
def nrz (b : Bit) : LineSymbol := if b = 1#1 then .plus else .zero

/-- NRZ-L: 0 gives 0, 1 gives -1 (R101). -/
def nrzl (b : Bit) : LineSymbol := if b = 1#1 then .minus else .zero

/-- NRZI's next level: the bit itself at position 0, else hold on 0 and complement on 1 (R102). -/
def nrziLevel (i : Nat) (b lvl : Bit) : Bit :=
  if i = 0 then b else if b = 0#1 then lvl else not1 lvl

/-- NRZI's symbol for a level: 0 for level 0, +1 for level 1 (R102, R103). -/
def nrziSym (level : Bit) : LineSymbol := if level = 1#1 then .plus else .zero

/-- The P1 step of NRZ (R100). -/
def nrzBit (s : State) : State := s.putSymbol s.pos (nrz (s.ibufRead s.pos))

/-- The P1 step of NRZ-L (R101). -/
def nrzlBit (s : State) : State := s.putSymbol s.pos (nrzl (s.ibufRead s.pos))

/-- The P1 step of NRZI: the new level goes to OBUF and to LVL (R102). -/
def nrziBit (s : State) : State :=
  let level := nrziLevel s.pos (s.ibufRead s.pos) s.work.lvl
  (s.putSymbol s.pos (nrziSym level)).setLvl level

/-- NRZ (R100). -/
def execNrz (len : Word) (s : State) : Host.Outcome State Fault Refusal :=
  singlePass (.nrz len) nrzBit endOneLevel s

/-- NRZ-L (R101). -/
def execNrzl (len : Word) (s : State) : Host.Outcome State Fault Refusal :=
  singlePass (.nrzl len) nrzlBit endOneLevel s

/-- NRZI (R102). -/
def execNrzi (len : Word) (s : State) : Host.Outcome State Fault Refusal :=
  singlePass (.nrzi len) nrziBit endOneLevel s

end Sys2Proof.Machine
end

