-- ==== Sys2Proof/Machine/Dispatch.lean ====
section
/-! DEFINITION. One arm per command: its meaning (the next event of that command: START, or the enabled step). -/

namespace Sys2Proof.Machine

def exec (i : Instr) (s : State) : Host.Outcome State Fault Refusal :=
  match i with
  | .nrz len => Sys2Proof.Machine.execNrz len s
  | .nrzl len => Sys2Proof.Machine.execNrzl len s
  | .nrzi len => Sys2Proof.Machine.execNrzi len s
  | .ami len => Sys2Proof.Machine.execAmi len s
  | .pst len => Sys2Proof.Machine.execPst len s
  | .man len => Sys2Proof.Machine.execMan len s
  | .dman len => Sys2Proof.Machine.execDman len s
  | .b8zs len => Sys2Proof.Machine.execB8zs len s
  | .hdb3 len => Sys2Proof.Machine.execHdb3 len s
  | .reserved9 => Sys2Proof.Machine.execReserved9 s
  | .reserved10 => Sys2Proof.Machine.execReserved10 s
  | .reserved11 => Sys2Proof.Machine.execReserved11 s
  | .reserved12 => Sys2Proof.Machine.execReserved12 s
  | .reserved13 => Sys2Proof.Machine.execReserved13 s
  | .reserved14 => Sys2Proof.Machine.execReserved14 s
  | .reserved15 => Sys2Proof.Machine.execReserved15 s

end Sys2Proof.Machine
end

