-- ==== Sys2Proof/Machine/HostPort.lean ====
section
/-! DEFINITION. The host's side of the block: register and buffer accesses, RESET, and which event comes next
(20_memory.md R43 to R46, R51; 70_reset_and_hazards.md R190, R196). -/

namespace Sys2Proof.Machine

/-- The value that a read of register `r` returns (10_state.md R11 to R15, 20_memory.md R43); no register above 4. -/
def State.regValue (s : State) (r : Nat) : Option Word :=
  match r with
  | 0 => some 0#32
  | 1 => some (s.kind.setWidth 32)
  | 2 => some s.len
  | 3 => some s.status.word
  | 4 => some s.olen
  | _ => none

/-- Note the value that a host read returned. -/
def State.reply (s : State) (r : Reply) : State :=
  { s with replies := s.replies ++ [r] }

/-- A register write that starts no operation (R43): KIND and LEN take their writable bits unless BUSY; a write to
CTRL, STATUS or OLEN does nothing (R10, R11, R92, R196). -/
def State.writeReg (s : State) (r : Nat) (v : Word) : State :=
  if s.busy then s
  else
    match r with
    | 1 => { s with kind := v.setWidth 4 }
    | 2 => { s with len := v }
    | _ => s

/-- OBUF[j] is the result's: ST = DONE and j < OLEN (R45, R195). -/
def State.obufValid (s : State) (j : Nat) : Bool :=
  s.status.st == .done && j < s.olen.toNat

/-- A host read of OBUF[j]: the stored code in a valid result, else a fresh free draw (R45, R46). -/
def State.readObuf (s : State) (j : Nat) : State :=
  if s.obufValid j then s.reply (.obuf (s.obufRead j))
  else { s.reply (.obuf (Config.obufDraw s.draws)) with draws := s.draws + 1 }

/-- RESET, in any state (R190, R191): the block is as after reset, its unspecified contents drawn anew; what the host
has yet to do and has read so far is the host's and stays. -/
def resetEvent (s : State) : State :=
  { State.afterReset s.nMax (s.resets + 1) with
    inputs := s.inputs, replies := s.replies, draws := s.draws }

/-- One host access that starts no operation (R43, R44, R45, R190); outside the index ranges it has no meaning (U6). -/
def serveAccess (a : HostAccess) (s : State) : Host.Outcome State Fault Refusal :=
  match a with
  | .regRead r =>
    match s.regValue r with
    | some v => .next (s.reply (.reg v))
    | none => .refused (.hostRegisterNumber r)
  | .regWrite r v => if r ≤ 4 then .next (s.writeReg r v) else .refused (.hostRegisterNumber r)
  | .ibufRead i =>
    if i < s.nMax then .next (s.reply (.ibuf (s.ibufRead i))) else .refused (.hostIbufIndex i)
  | .ibufWrite i b =>
    if i < s.nMax then .next (if s.busy then s else s.putBit i b) else .refused (.hostIbufIndex i)
  | .obufRead j => if j < 2 * s.nMax then .next (s.readObuf j) else .refused (.hostObufIndex j)
  | .obufWrite j _ => if j < 2 * s.nMax then .next s else .refused (.hostObufIndex j)
  | .reset => .next (resetEvent s)

/-- The access is a START command: a write of CTRL with bit 0 = 1 (10_state.md R11, 40_sequencer.md R80). -/
def isStart (a : HostAccess) : Bool :=
  match a with
  | .regWrite r v => r == 0 && v.getLsbD 0
  | _ => false

/-- The command that KIND and LEN name as they stand (30_encoding.md R60). -/
def State.command (s : State) : Instr := commandOf s.kind s.len

/-- The command that is running, by the copies OPK and N (40_sequencer.md R84, R194). -/
def State.running (s : State) : Instr := commandOf s.work.opk s.work.n

/-- The next event of the block. -/
inductive Event where
  /-- A command's event: an accepted START, or the encoder's step. -/
  | run (i : Instr) (s : State)
  /-- A host access that starts no operation. -/
  | serve (a : HostAccess) (s : State)
  /-- Nothing is enabled. -/
  | quiet (s : State)
deriving Repr

/-- A turn of the encoder: its one enabled step while BUSY, else nothing (40_sequencer.md R91). -/
def encoderEvent (s : State) : Event :=
  if s.busy then .run s.running s else .quiet s

/-- The event that comes next in the interleaving (20_memory.md R51), with the state after its entry is taken from
`inputs`. When nothing is left there, the host is silent and the encoder goes on alone. -/
def nextEvent (s : State) : Event :=
  match s.inputs with
  | [] => encoderEvent s
  | .encoderTurn :: rest => encoderEvent { s with inputs := rest }
  | .access a :: rest =>
    if isStart a && !s.busy then .run s.command { s with inputs := rest }
    else .serve a { s with inputs := rest }

end Sys2Proof.Machine
end

