-- ==== Sys2Proof/Machine/Step.lean ====
section
/-! DEFINITION. One step of the block, and placing a command where the next step takes it. -/

namespace Sys2Proof.Machine

/-- One event: a command's (an accepted START or the encoder's enabled step, both by `exec`), a host access, or
nothing (20_memory.md R51, 40_sequencer.md R91). -/
def step (s : State) : Host.Outcome State Fault Refusal :=
  match nextEvent s with
  | .run i t => exec i t
  | .serve a t => serveAccess a t
  | .quiet t => .next t

/-- `s` with the command of the bits `w` placed where the next step takes it: KIND and LEN hold its words, and the
host's next access is START. A block that is BUSY would ignore that START (R92), so it is made IDLE. -/
def State.withFetchWord (s : State) (nbits w : Nat) : State :=
  { s with
    kind := kindField (BitVec.ofNat 32 (w % 2 ^ nbits))
    len := BitVec.ofNat 32 (w % 2 ^ nbits / 2 ^ 32)
    status := if s.busy then ⟨.idle, .none, .none⟩ else s.status
    inputs := .access (.regWrite 0 1#32) :: s.inputs }

end Sys2Proof.Machine
end

