-- ==== Sys2Proof/Machine/Encode.lean ====
section
/-! DEFINITION. The whole operation as a function, `encode(kind, bits)` (40_sequencer.md R95): the composition of the
step rules over lists, with no buffer, register or step. -/

namespace Sys2Proof.Machine

/-- Why an operation faults: CAUSE and INFO (60_exceptions.md R170). -/
abbrev OpFault := Cause × Info

/-- The fold of nrzi over the bits from position `i` on (R95, R102). -/
def nrziSeq (i : Nat) (lvl : Bit) : List Bit → List LineSymbol
  | [] => []
  | b :: rest =>
    let level := nrziLevel i b lvl
    nrziSym level :: nrziSeq (i + 1) level rest

/-- The fold of pulse over the bits, `active` being the bit that carries a pulse (R95, R110). -/
def pulseSeq (active : Bit) (pol : Bit) : List Bit → List LineSymbol
  | [] => []
  | b :: rest =>
    let out := pulse (b == active) pol
    out.1 :: pulseSeq active out.2 rest

/-- encode(AMI, bits) (R95, R111). -/
def amiSeq (bits : List Bit) : List LineSymbol := pulseSeq 1#1 0#1 bits

/-- The concatenation of man(b) (R95, R120). -/
def manSeq (bits : List Bit) : List LineSymbol :=
  bits.flatMap (fun b => [(man b).1, (man b).2])

/-- The concatenation of the pairs of dman over the bits (R95, R121). -/
def dmanSeq (lvl : Bit) : List Bit → List LineSymbol
  | [] => []
  | b :: rest =>
    let out := dman b lvl
    out.1.1 :: out.1.2 :: dmanSeq out.2 rest

/-- The symbol at position `i` of a sequence. -/
def symAt (q : List LineSymbol) (i : Nat) : LineSymbol := q.getD i .zero

/-- The sequence with the positions from `s0` on replaced by the pattern. -/
def overwrite (q : List LineSymbol) (s0 : Nat) (pat : List LineSymbol) : List LineSymbol :=
  q.take s0 ++ pat ++ q.drop (s0 + pat.length)

/-- A replacement on a sequence: it gets the block start and what it has recorded so far. -/
abbrev ReplaceFn (ρ : Type) := Nat → ρ → List LineSymbol → Except OpFault (ρ × List LineSymbol)

/-- The scan of `substitute` over the `rest` positions from `i` on, with the zero counter `z` (R87, R95). -/
def substScan {ρ : Type} (L : Nat) (replace : ReplaceFn ρ) : (rest i z : Nat) → ρ → List LineSymbol →
    Except OpFault (List LineSymbol)
  | 0, _, _, _, q => .ok q
  | rest + 1, i, z, r, q =>
    if symAt q i ≠ .zero then substScan L replace rest (i + 1) 0 r q
    else if z + 1 < L then substScan L replace rest (i + 1) (z + 1) r q
    else
      match replace (i + 1 - L) r q with
      | .error e => .error e
      | .ok (r', q') => substScan L replace rest (i + 1) 0 r' q'

/-- `substitute(L, replace, S)`: scan S from index 0, each replacement seeing the earlier ones (R95). -/
def substitute {ρ : Type} (L : Nat) (replace : ReplaceFn ρ) (r : ρ) (q : List LineSymbol) :
    Except OpFault (List LineSymbol) :=
  substScan L replace q.length 0 0 r q

/-- `b8zs_replace` (R95, 44_b8zs.md R133 without its dead tests, R138). -/
def b8zsReplaceFn : ReplaceFn Unit := fun s0 _ q =>
  if s0 = 0 then .error (.invalidInput, .noPreceding)
  else .ok ((), overwrite q s0 (b8zsPattern (symAt q (s0 - 1))))

/-- `hdb3_replace` (R95, 45_hdb3.md R152 without its dead tests, R159); the record is the start of the last run. -/
def hdb3ReplaceFn : ReplaceFn (Option Nat) := fun s0 r q =>
  if s0 = 0 then .error (.invalidInput, .noPreceding)
  else .ok (some s0, overwrite q s0 (hdb3Pattern (classify s0 r.isSome (r.getD 0)) (symAt q (s0 - 1))))

/-- The faults of encode before any bit is looked at (R95, R81, R82, R83). -/
def encodeCheck (cap : Nat) (k : BitVec 4) (n : Nat) : Option OpFault :=
  if 9 ≤ k.toNat then some (.invalidKind, .none)
  else if cap < n then some (.invalidInput, .lenRange)
  else if n = 0 ∧ needsElement k then some (.invalidInput, .empty)
  else none

/-- `encode(k, bits)` for a kind that names an operation (R95). -/
def encodeBits (k : BitVec 4) (bits : List Bit) : Except OpFault (List LineSymbol) :=
  match k.toNat with
  | 0 => .ok (bits.map nrz)
  | 1 => .ok (bits.map nrzl)
  | 2 => .ok (nrziSeq 0 0#1 bits)
  | 3 => .ok (amiSeq bits)
  | 4 => .ok (pulseSeq 0#1 0#1 bits)
  | 5 => .ok (manSeq bits)
  | 6 => .ok (dmanSeq 0#1 bits)
  | 7 => substitute 8 b8zsReplaceFn () (amiSeq bits)
  | _ => substitute 4 hdb3ReplaceFn none (amiSeq bits)

/-- `encode(k, bits)` on a block of capacity `cap` = N_MAX (R95). -/
def encodeFrame (cap : Nat) (k : BitVec 4) (bits : List Bit) : Except OpFault (List LineSymbol) :=
  match encodeCheck cap k bits.length with
  | some f => .error f
  | none => encodeBits k bits

end Sys2Proof.Machine
end

