-- ==== Sys2Proof/Machine/Script.lean ====
section
/-! DEFINITION. The host script notation (30_encoding.md R66, R67): what each line stands for, as host accesses. It is
not part of the hardware. -/

namespace Sys2Proof.Machine

/-- The three address spaces (20_memory.md R40). -/
inductive Space where
  | reg
  | ibuf
  | obuf
deriving DecidableEq, Repr

/-- An access as the triple (space, index, value); a read has no value, and RESET is no access of a space (R66). -/
def accessTriple : HostAccess → Option (Space × Nat × Option Nat)
  | .regRead r => some (.reg, r, none)
  | .regWrite r v => some (.reg, r, some v.toNat)
  | .ibufRead i => some (.ibuf, i, none)
  | .ibufWrite i b => some (.ibuf, i, some b.toNat)
  | .obufRead j => some (.obuf, j, none)
  | .obufWrite j c => some (.obuf, j, some c.toNat)
  | .reset => none

/-- `WR KIND, <number>` (R66). -/
def wrKind (k : Word) : HostAccess := .regWrite 1 k

/-- `WR LEN, <n>` (R66). -/
def wrLen (n : Word) : HostAccess := .regWrite 2 n

/-- `WR CTRL, 1`: START (R66). -/
def wrStart : HostAccess := .regWrite 0 1#32

/-- The `WB` lines of `LOAD`, from position `i` on (R67). -/
def loadBitsFrom (i : Nat) : List Bit → List HostAccess
  | [] => []
  | b :: rest => .ibufWrite i b :: loadBitsFrom (i + 1) rest

/-- `LOAD <bitstring>` (R67). -/
def loadScript (bits : List Bit) : List HostAccess :=
  loadBitsFrom 0 bits ++ [wrLen (BitVec.ofNat 32 bits.length)]

/-- `ENC <mnemonic>` (R67), with the encoder taking its turns between the START and each read of STATUS: `waits` lists
how many turns each poll lets pass. -/
def encScript (k : Word) (waits : List Nat) : List Input :=
  [.access (wrKind k), .access wrStart] ++
    waits.flatMap (fun turns => List.replicate turns .encoderTurn ++ [.access (.regRead 3)])

/-- `DUMP` of a result of `olen` symbols (R67). -/
def dumpScript (olen : Nat) : List HostAccess :=
  .regRead 4 :: (List.range olen).map .obufRead

end Sys2Proof.Machine
end

