-- ==== Sys2Proof/Safety.lean ====
section
/-! DEFINITION. What the claims call a sound state, a legal host, and "nothing else changed". -/

namespace Sys2Proof.Machine

/-- Every element of OBUF below `k` has been written with a symbol's code. -/
def symbolsBelow (s : State) (k : Nat) : Prop :=
  ∀ j, j < k → ∃ v : LineSymbol, bufLookup s.obuf j = some v.code

/-- How many OBUF elements P1 has written when IDX is `i`: two per bit for MAN and DMAN, else one (R85). -/
def writtenBy (opk : BitVec 4) (i : Nat) : Nat :=
  if opk = 5#4 ∨ opk = 6#4 then 2 * i else i

/-- The block length of a kind with a pass P2 (R87); 0 for the others. -/
def blockLength (opk : BitVec 4) : Nat :=
  if opk = 7#4 then 8 else if opk = 8#4 then 4 else 0

/-- What holds while an operation runs: the copies are legal (R81, R82, R83), IDX <= N (R22), OBUF holds what P1 wrote,
the HDB3 record is empty in P1 (R84); in P2 the zero counter counts the zeros just before IDX, which follow a pulse or
start at index 0 (R87, R88), and the last HDB3 run lies before those zeros (R160). -/
structure RunningInv (s : State) : Prop where
  names : s.work.opk.toNat < 9
  fits : s.work.n.toNat ≤ s.nMax
  needed : needsElement s.work.opk = true → s.work.n ≠ 0#32
  inRange : s.work.idx.toNat ≤ s.work.n.toNat
  p2Kind : s.work.ph = .p2 → 0 < blockLength s.work.opk
  p1Record : s.work.ph = .p1 → s.work.pvalid = false
  p1Written : s.work.ph = .p1 → symbolsBelow s (writtenBy s.work.opk s.work.idx.toNat)
  p2Written : s.work.ph = .p2 → symbolsBelow s s.work.n.toNat
  p2Count : s.work.ph = .p2 → s.work.zcnt.toNat < blockLength s.work.opk
  p2Bound : s.work.ph = .p2 → s.work.zcnt.toNat ≤ s.work.idx.toNat
  p2Zeros : s.work.ph = .p2 → ∀ j, s.work.idx.toNat - s.work.zcnt.toNat ≤ j → j < s.work.idx.toNat →
    s.obufRead j = 0b00#2
  p2Pulse : s.work.ph = .p2 → 0 < s.work.idx.toNat - s.work.zcnt.toNat →
    s.obufRead (s.work.idx.toNat - s.work.zcnt.toNat - 1) ≠ 0b00#2
  p2Record : s.work.ph = .p2 → s.work.pvalid = true →
    s.work.pstart.toNat + 4 ≤ s.work.idx.toNat - s.work.zcnt.toNat

/-- The STATUS values that a rule of the spec can bring about (30_encoding.md R65). -/
def reachableStatus (t : Status) : Bool :=
  t == ⟨.idle, .none, .none⟩ || t == ⟨.busy, .none, .none⟩ || t == ⟨.done, .none, .none⟩ ||
  t == ⟨.fault, .invalidInput, .empty⟩ || t == ⟨.fault, .invalidInput, .noPreceding⟩ ||
  t == ⟨.fault, .invalidInput, .lenRange⟩ || t == ⟨.fault, .invalidKind, .none⟩

/-- The invariant of the block: every state that a run reaches has it, and from it the machine never faults. -/
structure BlockInv (s : State) : Prop where
  capLow : 1 ≤ s.nMax
  capHigh : s.nMax ≤ 2147483647
  ibufForm : bufWf s.ibuf
  obufForm : bufWf s.obuf
  ibufRange : ∀ e ∈ s.ibuf, e.1 < s.nMax
  obufRange : ∀ e ∈ s.obuf, e.1 < 2 * s.nMax
  obufCodes : ∀ e ∈ s.obuf, e.2 ≠ 0b10#2
  status : reachableStatus s.status = true
  olenOnlyDone : s.status.st ≠ .done → s.olen = 0#32
  olenRange : s.olen.toNat ≤ 2 * s.nMax
  resultWritten : s.status.st = .done → symbolsBelow s s.olen.toNat
  running : s.busy = true → RunningInv s

/-! ## Where an operation stands -/

/-- A P1 step is enabled (40_sequencer.md R85). -/
def atP1Step (s : State) : Prop := s.busy = true ∧ s.work.ph = .p1 ∧ s.work.idx.toNat < s.work.n.toNat

/-- The end of P1 is enabled (R86). -/
def atP1End (s : State) : Prop := s.busy = true ∧ s.work.ph = .p1 ∧ s.work.idx = s.work.n

/-- A P2 step is enabled (R87). -/
def atP2Step (s : State) : Prop := s.busy = true ∧ s.work.ph = .p2 ∧ s.work.idx.toNat < s.work.n.toNat

/-- The end of P2 is enabled (R89). -/
def atP2End (s : State) : Prop := s.busy = true ∧ s.work.ph = .p2 ∧ s.work.idx = s.work.n

/-- A P2 step at which the L consecutive zeros before and at IDX complete a block that starts at `s0` (R87, R88). -/
def atBlockEnd (L s0 : Nat) (s : State) : Prop :=
  atP2Step s ∧ s.work.zcnt.toNat + 1 = L ∧ s.pos + 1 = s0 + L ∧ ∀ k, k < L → s.obufRead (s0 + k) = 0b00#2

/-- The host's next access is a START, and the rest of its accesses follow (R80). -/
def startPending (s : State) (rest : List Input) : Prop :=
  ∃ v : Word, v.getLsbD 0 = true ∧ s.inputs = .access (.regWrite 0 v) :: rest

/-- How many encoder steps are left at most (R91): the rest of this pass and its end, and P2 after P1. -/
def stepsLeft (s : State) : Nat :=
  match s.work.ph with
  | .p1 => s.work.n.toNat - s.work.idx.toNat + 1 + (if blockLength s.work.opk = 0 then 0 else s.work.n.toNat + 1)
  | .p2 => s.work.n.toNat - s.work.idx.toNat + 1

/-- How many encoder steps an operation of kind `opk` on `n` bits can take at most (R91). -/
def stepBound (opk : BitVec 4) (n : Nat) : Nat :=
  if opk = 7#4 ∨ opk = 8#4 then 2 * n + 2 else n + 1

/-- From `s` the machine first stands with ST other than BUSY again after `k > 0` steps, in `t`. -/
def endsAt (s : State) (k : Nat) (t : State) : Prop :=
  0 < k ∧ Host.Core.run Sys2Proof.core k s = .next t ∧ t.busy = false ∧
    ∀ j, 0 < j → j < k → ∃ u, Host.Core.run Sys2Proof.core j s = .next u ∧ u.busy = true

/-! ## Frames -/

/-- Nothing that the host alone writes or sees outside a result differs: KIND, LEN, IBUF, the configuration and the
model's bookkeeping. -/
structure SameHostSide (s t : State) : Prop where
  kind : t.kind = s.kind
  len : t.len = s.len
  ibuf : t.ibuf = s.ibuf
  nMax : t.nMax = s.nMax
  inputs : t.inputs = s.inputs
  replies : t.replies = s.replies
  draws : t.draws = s.draws
  resets : t.resets = s.resets

/-- The whole frame of a step of the encoder that ends no pass: the host's side, STATUS and OLEN are as before, and the
working registers become `w`. -/
structure StepFrame (s t : State) (w : Work) : Prop where
  host : SameHostSide s t
  status : t.status = s.status
  olen : t.olen = s.olen
  work : t.work = w

/-- Every OBUF element outside `lo .. lo+k-1` reads as before. -/
def obufSameOutside (s t : State) (lo k : Nat) : Prop :=
  ∀ j, (j < lo ∨ lo + k ≤ j) → t.obufRead j = s.obufRead j

/-- An entry of the interleaving that the host may issue while an operation runs and that does not end it: in the index
ranges (U6), and not RESET. -/
def quietInput (cap : Nat) : Input → Bool
  | .encoderTurn => true
  | .access (.regRead r) => r ≤ 4
  | .access (.regWrite r _) => r ≤ 4
  | .access (.ibufRead i) => i < cap
  | .access (.ibufWrite i _) => i < cap
  | .access (.obufRead j) => j < 2 * cap
  | .access (.obufWrite j _) => j < 2 * cap
  | .access .reset => false

/-- The state shows the outcome of an operation: DONE with OLEN and OBUF holding the symbols, or FAULT with the cause
and
OLEN = 0 (40_sequencer.md R95). -/
def showsOutcome (t : State) : Except OpFault (List LineSymbol) → Prop
  | .ok q => t.status = ⟨.done, .none, .none⟩ ∧ t.olen.toNat = q.length ∧ t.result = q.map LineSymbol.code
  | .error (c, i) => t.status = ⟨.fault, c, i⟩ ∧ t.olen = 0#32

/-- The codes of OBUF[j .. j+k-1]. -/
def codesAt (s : State) (j k : Nat) : List SymCode := (List.range k).map (fun m => s.obufRead (j + m))

/-- No two pulses of `q` with only zeros between them have the same sign (the bipolarity law, 42_bipolar.md R113). -/
def alternates (q : List LineSymbol) : Prop :=
  ∀ i j, i < j → j < q.length → symAt q i ≠ .zero → symAt q j ≠ .zero →
    (∀ m, i < m → m < j → symAt q m = .zero) → symAt q j = (symAt q i).neg

end Sys2Proof.Machine
end

