-- ==== Sys2Proof/WellFormed.lean ====
section
/-! DEFINITION. Which commands a START turns into a running operation: the three static checks of 40_sequencer.md
R81, R82, R83 on the command itself, for a block of capacity `cap` = N_MAX. -/

namespace Sys2Proof

/-- KIND names one of the nine operations (R61, R62, R81). -/
def namesOperation : Instr → Bool
  | .nrz _ | .nrzl _ | .nrzi _ | .ami _ | .pst _ | .man _ | .dman _ | .b8zs _ | .hdb3 _ => true
  | .reserved9 | .reserved10 | .reserved11 | .reserved12 | .reserved13 | .reserved14 | .reserved15 => false

/-- The frame fits IBUF: `len` is in the legal range 0 .. N_MAX (R64, R82). -/
def frameFits (cap : Nat) : Instr → Bool
  | .nrz len | .nrzl len | .nrzi len | .ami len | .pst len | .man len | .dman len | .b8zs len | .hdb3 len =>
    len.toNat ≤ cap
  | .reserved9 | .reserved10 | .reserved11 | .reserved12 | .reserved13 | .reserved14 | .reserved15 => true

/-- An operation with a first-element boundary rule has a first element (R83: NRZI, DMAN, B8ZS, HDB3). -/
def hasNeededElement : Instr → Bool
  | .nrzi len | .dman len | .b8zs len | .hdb3 len => len != 0#32
  | .nrz _ | .nrzl _ | .ami _ | .pst _ | .man _ => true
  | .reserved9 | .reserved10 | .reserved11 | .reserved12 | .reserved13 | .reserved14 | .reserved15 => true

/-- The three checks together, in the order of R80. -/
def wellFormed (cap : Nat) (i : Instr) : Bool :=
  namesOperation i && frameFits cap i && hasNeededElement i

end Sys2Proof
end

