-- ==== Sys2Proof/Certificates/Slice0/Obligations.lean ====
section
/-! DEFINITION. The statements for the provers, from the numbered rules of spec/. -/

open Sys2Proof Sys2Proof.Machine

/-! ## Encoding -/

/-- 30_encoding.md R60, R61, R62: the words of a command decode to it, and every pair of words decodes to the command
whose words they are, but for KIND bits 31:4 and the LEN word of a reserved code, which has no operand. -/
def Obligations.DecodeAndEncodeAgree : Prop :=
  (∀ i : Instr, decode (encode i) = .ok i) ∧
  (∀ kind len : Word, ∃ i, decode [kind, len] = .ok i ∧
    encode i = [kind &&& 0xF#32, if (kind &&& 0xF#32).toNat < 9 then len else 0#32]) ∧
  (∀ ws : List Word, ws.length ≠ 2 → ∃ e, decode ws = .error e)

/-- 30_encoding.md R61, R62, R12 (and vector SC7): codes written out bit by bit. -/
def Obligations.WrittenOutCodesDecode : Prop :=
  decode [0b0000#32, 7#32] = .ok (.nrz 7#32) ∧ decode [0b0010#32, 1#32] = .ok (.nrzi 1#32) ∧
  decode [0b0100#32, 0#32] = .ok (.pst 0#32) ∧ decode [0b0110#32, 9#32] = .ok (.dman 9#32) ∧
  decode [0b10111#32, 10#32] = .ok (.b8zs 10#32) ∧ decode [0b1000#32, 11#32] = .ok (.hdb3 11#32) ∧
  decode [0b1001#32, 5#32] = .ok .reserved9 ∧ decode [0b1111#32, 0#32] = .ok .reserved15 ∧
  decodeTableWord 8 0b0101 = some (.man 0#32) ∧ decodeTableWord 4 0b0011 = some (.ami 0#32)

/-! ## The machine's step -/

/-- A step runs the decoded command: the host's START, when ST is not BUSY, runs the command that the words of KIND
and LEN decode to; a turn of the encoder, or the host's silence, runs the one that OPK and N decode to while BUSY, and
nothing otherwise; every other host access is served by `serveAccess` (20_memory.md R43 to R45, R51). Around `exec`
and `serveAccess`, the step takes the entry it used from `inputs`. -/
def Obligations.StepRunsDecodedCommand : Prop :=
  ∀ (s : State) (rest : List Input) (i : Instr),
    (startPending s rest → s.busy = false → decode [s.kind.setWidth 32, s.len] = .ok i →
      step s = exec i { s with inputs := rest }) ∧
    (s.inputs = .encoderTurn :: rest → s.busy = true → decode [s.work.opk.setWidth 32, s.work.n] = .ok i →
      step s = exec i { s with inputs := rest }) ∧
    (s.inputs = [] → s.busy = true → decode [s.work.opk.setWidth 32, s.work.n] = .ok i → step s = exec i s) ∧
    (s.inputs = .encoderTurn :: rest → s.busy = false → step s = .next { s with inputs := rest }) ∧
    (s.inputs = [] → s.busy = false → step s = .next s) ∧
    (∀ a : HostAccess, s.inputs = .access a :: rest → ¬ (s.busy = false ∧ startPending s rest) →
      step s = serveAccess a { s with inputs := rest })

/-- What `withFetchWord` places is what the next step runs. -/
def Obligations.PlacedWordRunsNext : Prop :=
  ∀ (s : State) (nbits w : Nat) (i : Instr), decodeTableWord nbits w = some i →
    step (s.withFetchWord nbits w) = exec i { s.withFetchWord nbits w with inputs := s.inputs }

/-- The invariant holds at reset. -/
def Obligations.InvHoldsAtReset : Prop := BlockInv State.reset

/-- Every step keeps the invariant: from every state that has it, not only from runs from reset. -/
def Obligations.EveryStepKeepsInv : Prop :=
  ∀ s t : State, BlockInv s → step s = .next t → BlockInv t

/-- 40_sequencer.md R91: while BUSY a step of the encoder is always enabled, so a sound state never faults; and it is
refused only on a host access outside the index ranges (93_implementation_defined.md U6). -/
def Obligations.SoundStatesNeverFault : Prop :=
  ∀ s : State, BlockInv s →
    (∀ f, step s ≠ .fault f) ∧
    (∀ r, step s = .refused r →
      ∃ a rest, s.inputs = .access a :: rest ∧ a ≠ .reset ∧ quietInput s.nMax (.access a) = false)

/-- 40_sequencer.md R91: while BUSY the encoder's step is enabled, and it ends the operation or leaves fewer steps to
do; what is left right after START is N + 1, or 2 * N + 2 for B8ZS and HDB3. -/
def Obligations.EncoderAlwaysProgresses : Prop :=
  (∀ s : State, BlockInv s → s.busy = true →
    ∃ t, exec s.running s = .next t ∧ (t.busy = true → stepsLeft t < stepsLeft s)) ∧
  (∀ (i : Instr) (s : State), s.busy = false → wellFormed s.nMax i = true →
    ∃ t, exec i s = .next t ∧ stepsLeft t = stepBound i.code i.len.toNat)

/-- 40_sequencer.md R95, R94, 20_memory.md R51: an accepted START of the kind in KIND on the frame in IBUF[0 .. LEN-1]
ends, whatever quiet accesses the host makes meanwhile, within one step for the START, one for each access and the
bound of R91, showing encode(kind, bits). -/
def Obligations.OperationComputesEncode : Prop :=
  ∀ (s : State) (rest : List Input), s.busy = false → startPending s rest → s.nMax ≤ 2147483647 →
    (∀ e ∈ rest, quietInput s.nMax e = true) →
    ∃ k t, endsAt s k t ∧ k ≤ 1 + rest.length + stepBound s.kind s.len.toNat ∧
      showsOutcome t (encodeFrame s.nMax s.kind (s.frame s.len.toNat))

/-- 40_sequencer.md R97: two operations started with the same KIND, LEN and frame end alike, whatever ran before and
whatever quiet accesses the host makes meanwhile. -/
def Obligations.OperationsAreRepeatable : Prop :=
  ∀ (s₁ s₂ t₁ t₂ : State) (r₁ r₂ : List Input) (k₁ k₂ : Nat),
    s₁.busy = false → s₂.busy = false → startPending s₁ r₁ → startPending s₂ r₂ →
    s₁.nMax = s₂.nMax → s₁.nMax ≤ 2147483647 →
    (∀ e ∈ r₁, quietInput s₁.nMax e = true) → (∀ e ∈ r₂, quietInput s₂.nMax e = true) →
    s₁.kind = s₂.kind → s₁.len = s₂.len → s₁.frame s₁.len.toNat = s₂.frame s₂.len.toNat →
    endsAt s₁ k₁ t₁ → endsAt s₂ k₂ t₂ →
    t₁.status = t₂.status ∧ t₁.olen = t₂.olen ∧ t₁.result = t₂.result

/-! ## START -/

/-- 40_sequencer.md R80, R84: a START of one of the nine kinds with a legal frame leaves the working registers of R84
and ST = BUSY, with OLEN, CAUSE and INFO cleared, and nothing else changed. -/
def Obligations.StartInitialisesOperation : Prop :=
  ∀ (s : State) (len : Word), s.busy = false → len.toNat ≤ s.nMax →
    let started (k : BitVec 4) : State :=
      { s with
        status := ⟨.busy, .none, .none⟩, olen := 0#32
        work := { opk := k, n := len, ph := .p1, idx := 0#32, pol := 0#1, lvl := 0#1, zcnt := 0#3,
                  pvalid := false, pstart := 0#32, pclass := .even } }
    exec (.nrz len) s = .next (started 0#4) ∧ exec (.nrzl len) s = .next (started 1#4) ∧
    exec (.ami len) s = .next (started 3#4) ∧ exec (.pst len) s = .next (started 4#4) ∧
    exec (.man len) s = .next (started 5#4) ∧
    (len ≠ 0#32 →
      exec (.nrzi len) s = .next (started 2#4) ∧ exec (.dman len) s = .next (started 6#4) ∧
      exec (.b8zs len) s = .next (started 7#4) ∧ exec (.hdb3 len) s = .next (started 8#4))

/-- 40_sequencer.md R81: a START with KIND[3:0] >= 9 raises InvalidKind(NONE) whatever LEN is; with another KIND it
never records that. -/
def Obligations.StartRejectsReservedKind : Prop :=
  (∀ (s : State) (i : Instr), s.busy = false →
    i ∈ [Instr.reserved9, .reserved10, .reserved11, .reserved12, .reserved13, .reserved14, .reserved15] →
    exec i s = .next { s with status := ⟨.fault, .invalidKind, .none⟩, olen := 0#32 }) ∧
  (∀ (s : State) (rest : List Input), s.busy = false → startPending s rest →
    (9 ≤ s.kind.toNat →
      step s = .next { s with inputs := rest, status := ⟨.fault, .invalidKind, .none⟩, olen := 0#32 }) ∧
    (s.kind.toNat < 9 → ∃ t, step s = .next t ∧ t.status.cause ≠ .invalidKind))

/-- 40_sequencer.md R82: a START with a legal KIND and LEN > N_MAX raises InvalidInput(LEN_RANGE); otherwise it never
records that. -/
def Obligations.StartRejectsLongFrame : Prop :=
  ∀ (s : State) (rest : List Input), s.busy = false → startPending s rest → s.kind.toNat < 9 →
    (s.nMax < s.len.toNat →
      step s = .next { s with inputs := rest, status := ⟨.fault, .invalidInput, .lenRange⟩, olen := 0#32 }) ∧
    (s.len.toNat ≤ s.nMax → ∃ t, step s = .next t ∧ t.status ≠ ⟨.fault, .invalidInput, .lenRange⟩)

/-- 40_sequencer.md R83: a START with LEN = 0 raises InvalidInput(EMPTY) for NRZI, DMAN, B8ZS and HDB3; for NRZ, NRZL,
AMI, PST and MAN it starts an operation whose one step ends it DONE with OLEN = 0. -/
def Obligations.StartOnEmptyFrame : Prop :=
  (∀ (s : State) (i : Instr), s.busy = false → i ∈ [Instr.nrzi 0#32, .dman 0#32, .b8zs 0#32, .hdb3 0#32] →
    exec i s = .next { s with status := ⟨.fault, .invalidInput, .empty⟩, olen := 0#32 }) ∧
  (∀ (s : State) (i : Instr), s.busy = false → i ∈ [Instr.nrz 0#32, .nrzl 0#32, .ami 0#32, .pst 0#32, .man 0#32] →
    ∃ t u, exec i s = .next t ∧ t.busy = true ∧ exec i t = .next u ∧ u.status = ⟨.done, .none, .none⟩ ∧
      u.olen = 0#32)

/-- 40_sequencer.md R92, 70_reset_and_hazards.md R196: while BUSY a START is ignored (only the host's queue moves on),
and no host access but RESET changes anything that the encoder reads or writes. -/
def Obligations.BusyBlockIgnoresHostWrites : Prop :=
  (∀ (s : State) (rest : List Input), s.busy = true → startPending s rest → step s = .next { s with inputs := rest }) ∧
  (∀ (a : HostAccess) (s t : State), s.busy = true → a ≠ .reset → serveAccess a s = .next t →
    t.kind = s.kind ∧ t.len = s.len ∧ t.status = s.status ∧ t.olen = s.olen ∧ t.work = s.work ∧ t.ibuf = s.ibuf ∧
    t.obuf = s.obuf ∧ t.nMax = s.nMax ∧ t.resets = s.resets ∧ t.inputs = s.inputs)

/-! ## Pass P1, one bit -/

/-- 41_simple_nrz.md R100: the P1 step of NRZ emits 0 for 0 and +1 for 1, and changes nothing else but IDX. -/
def Obligations.NrzStepEmitsBit : Prop :=
  ∀ (len : Word) (s : State), atP1Step s →
    ∃ t, exec (.nrz len) s = .next t ∧ StepFrame s t { s.work with idx := s.work.idx + 1#32 } ∧
      t.obufRead s.pos = (if s.ibufRead s.pos = 1#1 then 0b01#2 else 0b00#2) ∧ obufSameOutside s t s.pos 1

/-- 41_simple_nrz.md R101: the P1 step of NRZ-L emits 0 for 0 and -1 for 1, and changes nothing else but IDX. -/
def Obligations.NrzlStepEmitsBit : Prop :=
  ∀ (len : Word) (s : State), atP1Step s →
    ∃ t, exec (.nrzl len) s = .next t ∧ StepFrame s t { s.work with idx := s.work.idx + 1#32 } ∧
      t.obufRead s.pos = (if s.ibufRead s.pos = 1#1 then 0b11#2 else 0b00#2) ∧ obufSameOutside s t s.pos 1

/-- 41_simple_nrz.md R102: the P1 step of NRZI takes the bit at position 0, holds LVL on 0 and complements it on 1;
the new level goes to LVL and to OBUF as 0 or +1. -/
def Obligations.NrziStepTracksLevel : Prop :=
  ∀ (len : Word) (s : State), atP1Step s →
    ∃ t new, exec (.nrzi len) s = .next t ∧
      (s.pos = 0 → new = s.ibufRead 0) ∧
      (s.pos ≠ 0 → s.ibufRead s.pos = 0#1 → new = s.work.lvl) ∧
      (s.pos ≠ 0 → s.ibufRead s.pos = 1#1 → new = s.work.lvl ^^^ 1#1) ∧
      StepFrame s t { s.work with idx := s.work.idx + 1#32, lvl := new } ∧
      t.obufRead s.pos = (if new = 1#1 then 0b01#2 else 0b00#2) ∧ obufSameOutside s t s.pos 1

/-- 42_bipolar.md R110, R111 and 44_b8zs.md R131, 45_hdb3.md R151: the P1 step of AMI, B8ZS and HDB3 emits 0 on a 0
and leaves POL; on a 1 it emits +1 when POL = 0 and -1 when POL = 1, and flips POL. -/
def Obligations.AmiStepAlternatesOnOnes : Prop :=
  ∀ (len : Word) (s : State) (i : Instr), atP1Step s → i ∈ [Instr.ami len, .b8zs len, .hdb3 len] →
    ∃ t, exec i s = .next t ∧ obufSameOutside s t s.pos 1 ∧
      (s.ibufRead s.pos = 0#1 → t.obufRead s.pos = 0b00#2 ∧
        StepFrame s t { s.work with idx := s.work.idx + 1#32 }) ∧
      (s.ibufRead s.pos = 1#1 → s.work.pol = 0#1 → t.obufRead s.pos = 0b01#2 ∧
        StepFrame s t { s.work with idx := s.work.idx + 1#32, pol := 1#1 }) ∧
      (s.ibufRead s.pos = 1#1 → s.work.pol = 1#1 → t.obufRead s.pos = 0b11#2 ∧
        StepFrame s t { s.work with idx := s.work.idx + 1#32, pol := 0#1 })

/-- 42_bipolar.md R110, R112: the P1 step of Pseudoternary is the mirror image: the 0 carries the pulse. -/
def Obligations.PstStepAlternatesOnZeros : Prop :=
  ∀ (len : Word) (s : State), atP1Step s →
    ∃ t, exec (.pst len) s = .next t ∧ obufSameOutside s t s.pos 1 ∧
      (s.ibufRead s.pos = 1#1 → t.obufRead s.pos = 0b00#2 ∧
        StepFrame s t { s.work with idx := s.work.idx + 1#32 }) ∧
      (s.ibufRead s.pos = 0#1 → s.work.pol = 0#1 → t.obufRead s.pos = 0b01#2 ∧
        StepFrame s t { s.work with idx := s.work.idx + 1#32, pol := 1#1 }) ∧
      (s.ibufRead s.pos = 0#1 → s.work.pol = 1#1 → t.obufRead s.pos = 0b11#2 ∧
        StepFrame s t { s.work with idx := s.work.idx + 1#32, pol := 0#1 })

/-- 43_manchester.md R120: the P1 step of Manchester writes (-1, +1) for 1 and (+1, -1) for 0 at 2i and 2i + 1. -/
def Obligations.ManStepWritesCycle : Prop :=
  ∀ (len : Word) (s : State), atP1Step s →
    ∃ t, exec (.man len) s = .next t ∧ StepFrame s t { s.work with idx := s.work.idx + 1#32 } ∧
      codesAt t (2 * s.pos) 2 = (if s.ibufRead s.pos = 1#1 then [0b11#2, 0b01#2] else [0b01#2, 0b11#2]) ∧
      obufSameOutside s t (2 * s.pos) 2

/-- 43_manchester.md R121, R122: the P1 step of Differential Manchester: the first half is LVL xor the bit, the second
half its complement, each -1 for low and +1 for high; LVL becomes the second half. -/
def Obligations.DmanStepWritesCycle : Prop :=
  ∀ (len : Word) (s : State), atP1Step s →
    ∃ t, exec (.dman len) s = .next t ∧ obufSameOutside s t (2 * s.pos) 2 ∧
      (s.work.lvl ^^^ s.ibufRead s.pos = 0#1 → codesAt t (2 * s.pos) 2 = [0b11#2, 0b01#2] ∧
        StepFrame s t { s.work with idx := s.work.idx + 1#32, lvl := 1#1 }) ∧
      (s.work.lvl ^^^ s.ibufRead s.pos = 1#1 → codesAt t (2 * s.pos) 2 = [0b01#2, 0b11#2] ∧
        StepFrame s t { s.work with idx := s.work.idx + 1#32, lvl := 0#1 })

/-! ## The ends of the passes -/

/-- 40_sequencer.md R86: the end of P1 goes to P2 for B8ZS and HDB3, and else ends DONE with OLEN = N, or 2 * N for
MAN and DMAN; nothing else changes. -/
def Obligations.EndOfFirstPass : Prop :=
  ∀ (len : Word) (s : State), atP1End s →
    (∀ i ∈ [Instr.nrz len, .nrzl len, .nrzi len, .ami len, .pst len],
      exec i s = .next { s with olen := s.work.n, status := { s.status with st := .done } }) ∧
    (∀ i ∈ [Instr.man len, .dman len],
      exec i s = .next { s with olen := 2#32 * s.work.n, status := { s.status with st := .done } }) ∧
    (∀ i ∈ [Instr.b8zs len, .hdb3 len],
      exec i s = .next { s with work := { s.work with ph := .p2, idx := 0#32, zcnt := 0#3 } })

/-- 40_sequencer.md R89: the end of P2 ends DONE with OLEN = N; OBUF keeps its trailing zeros. -/
def Obligations.EndOfSecondPass : Prop :=
  ∀ (len : Word) (s : State) (i : Instr), atP2End s → i ∈ [Instr.b8zs len, .hdb3 len] →
    exec i s = .next { s with olen := s.work.n, status := { s.status with st := .done } }

/-- 40_sequencer.md R96: an operation that ends DONE has OLEN = N, or 2 * N for MAN and DMAN, and no substitution
changes the length. -/
def Obligations.OutputLengthLaw : Prop :=
  (∀ s t : State, BlockInv s → s.busy = true → exec s.running s = .next t → t.status.st = .done →
    t.olen.toNat = if s.work.opk = 5#4 ∨ s.work.opk = 6#4 then 2 * s.work.n.toNat else s.work.n.toNat) ∧
  (∀ (cap : Nat) (k : BitVec 4) (bits : List Bit) (q : List LineSymbol), encodeFrame cap k bits = .ok q →
    q.length = if k = 5#4 ∨ k = 6#4 then 2 * bits.length else bits.length)

/-! ## Pass P2 -/

/-- 40_sequencer.md R87: a P2 step past a nonzero symbol clears ZCNT, and past a zero that completes no block counts
it; OBUF does not change. -/
def Obligations.ScanCountsZeros : Prop :=
  ∀ (len : Word) (s : State), atP2Step s →
    (∀ i ∈ [Instr.b8zs len, .hdb3 len], s.obufRead s.pos ≠ 0b00#2 →
      exec i s = .next { s with work := { s.work with zcnt := 0#3, idx := s.work.idx + 1#32 } }) ∧
    (s.obufRead s.pos = 0b00#2 → s.work.zcnt.toNat + 1 < 8 →
      exec (.b8zs len) s =
        .next { s with work := { s.work with zcnt := s.work.zcnt + 1#3, idx := s.work.idx + 1#32 } }) ∧
    (s.obufRead s.pos = 0b00#2 → s.work.zcnt.toNat + 1 < 4 →
      exec (.hdb3 len) s =
        .next { s with work := { s.work with zcnt := s.work.zcnt + 1#3, idx := s.work.idx + 1#32 } })

/-- 44_b8zs.md R133, R136, R137: a completed block after +1 becomes TOP, after -1 BOTTOM; nothing outside it changes,
not POL, not LVL, not the HDB3 record. -/
def Obligations.B8zsReplacesBlock : Prop :=
  ∀ (len : Word) (s : State) (s0 : Nat), atBlockEnd 8 s0 s → 0 < s0 →
    s.obufRead (s0 - 1) = 0b01#2 ∨ s.obufRead (s0 - 1) = 0b11#2 →
    ∃ t, exec (.b8zs len) s = .next t ∧
      StepFrame s t { s.work with zcnt := 0#3, idx := s.work.idx + 1#32 } ∧
      codesAt t s0 8 = (if s.obufRead (s0 - 1) = 0b01#2
        then [0b00#2, 0b00#2, 0b00#2, 0b01#2, 0b11#2, 0b00#2, 0b11#2, 0b01#2]
        else [0b00#2, 0b00#2, 0b00#2, 0b11#2, 0b01#2, 0b00#2, 0b01#2, 0b11#2]) ∧
      obufSameOutside s t s0 8

/-- 45_hdb3.md R152, R153, R156, R157: a completed run is ODD or EVEN by its own index when it is the first and by the
gap otherwise; EVEN writes B00V and ODD writes 000V after the preceding pulse, and the record takes the run. -/
def Obligations.Hdb3ReplacesRun : Prop :=
  ∀ (len : Word) (s : State) (s0 : Nat), atBlockEnd 4 s0 s → 0 < s0 →
    s.obufRead (s0 - 1) = 0b01#2 ∨ s.obufRead (s0 - 1) = 0b11#2 →
    ∃ t cls, exec (.hdb3 len) s = .next t ∧
      (s.work.pvalid = false → (cls = .odd ↔ s0 % 2 = 1)) ∧
      (s.work.pvalid = true → (cls = .odd ↔ ((s0 : Int) - ((s.work.pstart.toNat : Int) + 3) - 1) % 2 = 1)) ∧
      StepFrame s t { s.work with
        zcnt := 0#3, idx := s.work.idx + 1#32, pvalid := true, pstart := BitVec.ofNat 32 s0, pclass := cls } ∧
      codesAt t s0 4 = (match cls with
        | .even => if s.obufRead (s0 - 1) = 0b11#2 then [0b01#2, 0b00#2, 0b00#2, 0b01#2]
            else [0b11#2, 0b00#2, 0b00#2, 0b11#2]
        | .odd => if s.obufRead (s0 - 1) = 0b11#2 then [0b00#2, 0b00#2, 0b00#2, 0b11#2]
            else [0b00#2, 0b00#2, 0b00#2, 0b01#2]) ∧
      obufSameOutside s t s0 4

/-- 44_b8zs.md R134, 45_hdb3.md R154, 60_exceptions.md R174: a block completed at index 0 raises
InvalidInput(NO_PRECEDING): STATUS says so, ZCNT is 0, and nothing else changes, IDX and OBUF included. -/
def Obligations.LeadingBlockFaults : Prop :=
  ∀ (len : Word) (s : State),
    (atBlockEnd 8 0 s → exec (.b8zs len) s =
      .next { s with status := ⟨.fault, .invalidInput, .noPreceding⟩, work := { s.work with zcnt := 0#3 } }) ∧
    (atBlockEnd 4 0 s → exec (.hdb3 len) s =
      .next { s with status := ⟨.fault, .invalidInput, .noPreceding⟩, work := { s.work with zcnt := 0#3 } })

/-- 44_b8zs.md R140, 45_hdb3.md R155, R160: in a sound state, where the counter completes a block that does not start
at index 0, its symbols are zeros, the symbol before it is a pulse, and the gap to the last HDB3 run is not
negative. -/
def Obligations.CompletedBlockFollowsPulse : Prop :=
  ∀ (s : State) (s0 : Nat), BlockInv s → atP2Step s → s.obufRead s.pos = 0b00#2 →
    s.work.zcnt.toNat + 1 = blockLength s.work.opk → s.pos + 1 = s0 + blockLength s.work.opk →
    (∀ k, k < blockLength s.work.opk → s.obufRead (s0 + k) = 0b00#2) ∧
    (0 < s0 → s.obufRead (s0 - 1) = 0b01#2 ∨ s.obufRead (s0 - 1) = 0b11#2) ∧
    (s.work.pvalid = true → 0 ≤ hdb3Gap s0 s.work.pstart.toNat)

/-- 44_b8zs.md R138, 45_hdb3.md R159, 60_exceptions.md R173: from a sound state no step records
InternalInvariantViolation or BAD_BIT. -/
def Obligations.InternalViolationNeverRecorded : Prop :=
  ∀ s t : State, BlockInv s → step s = .next t →
    t.status.cause ≠ .internalInvariantViolation ∧ t.status.info ≠ .badBit

/-- 10_state.md R18: while BUSY, POL changes only in a P1 step of AMI, B8ZS or HDB3 on a 1 or of PST on a 0 (START,
which sets POL, is no step); and a step of any command in pass P2 leaves POL and LVL as they are. -/
def Obligations.PolarityChangesOnlyInPulseSteps : Prop :=
  (∀ (i : Instr) (s t : State), s.busy = true → exec i s = .next t → t.work.pol ≠ s.work.pol →
    atP1Step s ∧ ∃ len : Word,
      (i ∈ [Instr.ami len, .b8zs len, .hdb3 len] ∧ s.ibufRead s.pos = 1#1) ∨
      (i = .pst len ∧ s.ibufRead s.pos = 0#1)) ∧
  (∀ (i : Instr) (s t : State), s.busy = true → s.work.ph = .p2 → exec i s = .next t →
    t.work.pol = s.work.pol ∧ t.work.lvl = s.work.lvl)

/-- 10_state.md R19: PCLASS is recorded and never consulted: a command's event from two states that differ in PCLASS
alone gives two states that differ in PCLASS alone, if at all. -/
def Obligations.RunClassNeverConsulted : Prop :=
  ∀ (i : Instr) (s t : State) (c : Parity), exec i s = .next t →
    ∃ u d, exec i { s with work := { s.work with pclass := c } } = .next u ∧
      u = { t with work := { t.work with pclass := d } }

/-- 10_state.md R12, R13, R20, 20_memory.md R44: no event of a command writes KIND, LEN, IBUF or anything of the
host's. -/
def Obligations.EncoderLeavesHostSide : Prop :=
  ∀ (i : Instr) (s t : State), exec i s = .next t → SameHostSide s t

/-! ## Host accesses and reset -/

/-- 20_memory.md R43, 30_encoding.md R65: the host reads each register as its layout says, with the codes of ST, CAUSE
and INFO in STATUS, in any state, and the read changes nothing but the list of replies. -/
def Obligations.HostReadsRegisters : Prop :=
  ∀ s : State,
    serveAccess (.regRead 0) s = .next (s.reply (.reg 0#32)) ∧
    serveAccess (.regRead 1) s = .next (s.reply (.reg (s.kind.setWidth 32))) ∧
    serveAccess (.regRead 2) s = .next (s.reply (.reg s.len)) ∧
    (∃ v, serveAccess (.regRead 3) s = .next (s.reply (.reg v)) ∧
      v.extractLsb' 0 2 = (match s.status.st with | .idle => 0#2 | .busy => 1#2 | .done => 2#2 | .fault => 3#2) ∧
      v.extractLsb' 2 2 = (match s.status.cause with
        | .none => 0#2 | .invalidInput => 1#2 | .internalInvariantViolation => 2#2 | .invalidKind => 3#2) ∧
      v.extractLsb' 4 3 = (match s.status.info with
        | .none => 0#3 | .badBit => 1#3 | .empty => 2#3 | .noPreceding => 3#3 | .lenRange => 4#3 | .runShape => 5#3
        | .precedingZero => 6#3) ∧
      v.extractLsb' 7 25 = 0#25) ∧
    serveAccess (.regRead 4) s = .next (s.reply (.reg s.olen))

/-- 20_memory.md R43, 10_state.md R11, R12, R13: outside BUSY a write of KIND stores bits 3:0 and a write of LEN all
32 bits; a write of CTRL that is no START, of STATUS or of OLEN does nothing. -/
def Obligations.HostWritesRegisters : Prop :=
  ∀ (s : State) (rest : List Input) (v : Word), s.busy = false →
    (s.inputs = .access (.regWrite 1 v) :: rest → step s = .next { s with inputs := rest, kind := v.extractLsb' 0 4 }) ∧
    (s.inputs = .access (.regWrite 2 v) :: rest → step s = .next { s with inputs := rest, len := v }) ∧
    (s.inputs = .access (.regWrite 0 v) :: rest → v.getLsbD 0 = false → step s = .next { s with inputs := rest }) ∧
    (s.inputs = .access (.regWrite 3 v) :: rest → step s = .next { s with inputs := rest }) ∧
    (s.inputs = .access (.regWrite 4 v) :: rest → step s = .next { s with inputs := rest })

/-- 30_encoding.md R65: the STATUS words that the host can ever read. -/
def Obligations.StatusWordsHostCanRead : Prop :=
  ∀ (s t : State) (v : Word), BlockInv s → serveAccess (.regRead 3) s = .next t → t = s.reply (.reg v) →
    v ∈ [0x00#32, 0x01#32, 0x02#32, 0x27#32, 0x37#32, 0x47#32, 0x0F#32]

/-- 20_memory.md R44: an IBUF write outside BUSY stores the bit, reads return it, and no other element changes; while
BUSY it does nothing. -/
def Obligations.IbufHoldsWhatHostWrote : Prop :=
  ∀ (s : State) (i : Nat) (b : Bit), i < s.nMax →
    (s.busy = false → ∃ t, serveAccess (.ibufWrite i b) s = .next t ∧ t.ibufRead i = b ∧
      (∀ j, j ≠ i → t.ibufRead j = s.ibufRead j) ∧ t = { s with ibuf := t.ibuf } ∧
      serveAccess (.ibufRead i) t = .next (t.reply (.ibuf b))) ∧
    (s.busy = true → serveAccess (.ibufWrite i b) s = .next s) ∧
    serveAccess (.ibufRead i) s = .next (s.reply (.ibuf (s.ibufRead i)))

/-- 20_memory.md R45, R46: a read of OBUF[j] returns the symbol's code when ST = DONE and j < OLEN, and otherwise a
fresh free draw, whatever OBUF holds (the model's form of it: log 6); a write of OBUF does nothing. -/
def Obligations.ObufReadableOnlyInResult : Prop :=
  ∀ (s : State) (j : Nat), j < 2 * s.nMax →
    (s.status.st = .done ∧ j < s.olen.toNat → serveAccess (.obufRead j) s = .next (s.reply (.obuf (s.obufRead j)))) ∧
    (¬ (s.status.st = .done ∧ j < s.olen.toNat) →
      serveAccess (.obufRead j) s =
        .next { s.reply (.obuf (Config.obufDraw s.draws)) with draws := s.draws + 1 }) ∧
    (∀ c, serveAccess (.obufWrite j c) s = .next s)

/-- 93_implementation_defined.md U6: an access outside the index ranges is refused by name. -/
def Obligations.OutOfRangeAccessesRefused : Prop :=
  (∀ (s : State) (r : Nat) (v : Word), 4 < r →
    serveAccess (.regRead r) s = .refused (.hostRegisterNumber r) ∧
    serveAccess (.regWrite r v) s = .refused (.hostRegisterNumber r)) ∧
  (∀ (s : State) (i : Nat) (b : Bit), s.nMax ≤ i →
    serveAccess (.ibufRead i) s = .refused (.hostIbufIndex i) ∧
    serveAccess (.ibufWrite i b) s = .refused (.hostIbufIndex i)) ∧
  (∀ (s : State) (j : Nat) (c : SymCode), 2 * s.nMax ≤ j →
    serveAccess (.obufRead j) s = .refused (.hostObufIndex j) ∧
    serveAccess (.obufWrite j c) s = .refused (.hostObufIndex j))

/-- 10_state.md R24: what reset leaves in the registers that have a reset value. -/
def Obligations.ResetValues : Prop :=
  State.reset.kind = 0#4 ∧ State.reset.len = 0#32 ∧ State.reset.status = ⟨.idle, .none, .none⟩ ∧
  State.reset.olen = 0#32 ∧ 1 ≤ State.reset.nMax ∧ State.reset.nMax ≤ 2147483647

/-- 70_reset_and_hazards.md R190, R191: RESET, in any state, BUSY or not, clears KIND, LEN, STATUS and OLEN and draws
IBUF, OBUF and the working registers anew; the capacity and the host's own lists stay. -/
def Obligations.ResetEventClearsBlock : Prop :=
  ∀ (s : State) (rest : List Input), s.inputs = .access .reset :: rest →
    ∃ t, step s = .next t ∧ t.kind = 0#4 ∧ t.len = 0#32 ∧ t.status = ⟨.idle, .none, .none⟩ ∧ t.olen = 0#32 ∧
      t.work = Config.workAtReset (s.resets + 1) ∧ (∀ i, t.ibufRead i = Config.ibufAtReset (s.resets + 1) i) ∧
      (∀ j, t.obufRead j = Config.obufAtReset (s.resets + 1) j) ∧ t.nMax = s.nMax ∧ t.inputs = rest ∧
      t.replies = s.replies ∧ t.draws = s.draws

/-- 60_exceptions.md R174, R178: a fault records CAUSE, INFO and ST = FAULT and nothing else; after it the encoder
takes no step, and the next accepted START clears it or records its own fault. -/
def Obligations.FaultEntryAndRecovery : Prop :=
  (∀ (c : Cause) (i : Info) (s : State), raiseFault c i s = { s with status := ⟨.fault, c, i⟩ }) ∧
  (∀ s : State, s.status.st = .fault → s.inputs = [] → step s = .next s) ∧
  (∀ (i : Instr) (s : State), s.status.st = .fault → ∃ t, exec i s = .next t ∧
    (wellFormed s.nMax i = true → t.status = ⟨.busy, .none, .none⟩) ∧
    (wellFormed s.nMax i = false → t.status.st = .fault ∧ t.olen = 0#32 ∧ t.work = s.work))

/-! ## encode(kind, bits) -/

/-- 41_simple_nrz.md R103, R104: NRZI emits 0 and +1 only, and its transitions, with reference level 0 before position
0, are the frame. -/
def Obligations.NrziRoundTrip : Prop :=
  ∀ (cap : Nat) (bits : List Bit) (q : List LineSymbol), encodeFrame cap 2#4 bits = .ok q →
    (∀ v ∈ q, v = .zero ∨ v = .plus) ∧ q.length = bits.length ∧
    ∀ i, i < bits.length →
      (bits.getD i 0#1 = 1#1 ↔ symAt q i ≠ (if i = 0 then .zero else symAt q (i - 1)))

/-- 42_bipolar.md R113: for AMI and PST the nonzero symbols are exactly those of the active bits, and consecutive
pulses alternate in sign. -/
def Obligations.BipolarPulsesAlternate : Prop :=
  ∀ (cap : Nat) (bits : List Bit) (q : List LineSymbol),
    (encodeFrame cap 3#4 bits = .ok q →
      (∀ i, i < bits.length → (symAt q i ≠ .zero ↔ bits.getD i 0#1 = 1#1)) ∧ alternates q) ∧
    (encodeFrame cap 4#4 bits = .ok q →
      (∀ i, i < bits.length → (symAt q i ≠ .zero ↔ bits.getD i 0#1 = 0#1)) ∧ alternates q)

/-- 42_bipolar.md R112: encode(PST, bits) = encode(AMI, complement of bits). -/
def Obligations.PstIsAmiOfComplement : Prop :=
  ∀ (cap : Nat) (bits : List Bit), encodeFrame cap 4#4 bits = encodeFrame cap 3#4 (bits.map not1)

/-- 43_manchester.md R123: in every cycle of MAN and DMAN the two symbols are opposite pulses, so no symbol is 0, and
a DMAN cycle i >= 1 starts with the last symbol of the cycle before it exactly when bit i is 0. -/
def Obligations.ManchesterMidCycleTransition : Prop :=
  ∀ (cap : Nat) (bits : List Bit) (q : List LineSymbol),
    (∀ k ∈ [5#4, 6#4], encodeFrame cap k bits = .ok q → .zero ∉ q ∧
      ∀ i, i < bits.length → symAt q (2 * i + 1) = (symAt q (2 * i)).neg ∧ symAt q (2 * i) ≠ .zero) ∧
    (encodeFrame cap 6#4 bits = .ok q → ∀ i, 1 ≤ i → i < bits.length →
      (symAt q (2 * i) = symAt q (2 * i - 1) ↔ bits.getD i 0#1 = 0#1))

/-- 44_b8zs.md R134, 45_hdb3.md R154: on a frame that passes the checks of START, encode of B8ZS or HDB3 faults
exactly when the frame begins with a full block of 0 bits, and then with NO_PRECEDING. -/
def Obligations.LeadingZerosFaultExactly : Prop :=
  ∀ (cap : Nat) (bits : List Bit), 0 < bits.length → bits.length ≤ cap →
    (∀ f, encodeFrame cap 7#4 bits = .error f ↔
      (f = (.invalidInput, .noPreceding) ∧ bits.take 8 = List.replicate 8 0#1)) ∧
    (∀ f, encodeFrame cap 8#4 bits = .error f ↔
      (f = (.invalidInput, .noPreceding) ∧ bits.take 4 = List.replicate 4 0#1))

/-- 44_b8zs.md R132, R139, R140, 40_sequencer.md R88: a 1 and then z zeros, where they fit, give floor(z / 8) TOP
patterns laid end to end and z mod 8 zeros left over. -/
def Obligations.B8zsFillsZeroRun : Prop :=
  ∀ cap z : Nat, z + 1 ≤ cap → encodeFrame cap 7#4 (1#1 :: List.replicate z 0#1) =
    .ok (.plus :: (List.replicate (z / 8)
      [LineSymbol.zero, .zero, .zero, .plus, .minus, .zero, .minus, .plus]).flatten ++ List.replicate (z % 8) .zero)

/-- 45_hdb3.md R161, R153, R156, 40_sequencer.md R88: a 1 and then at least four zeros, where they fit, give the ODD
run at index 1, then EVEN runs laid end to end whose pulses take the opposite of the pulse before them, and z mod 4
zeros left over. -/
def Obligations.Hdb3FillsZeroRun : Prop :=
  ∀ cap z : Nat, z + 5 ≤ cap → encodeFrame cap 8#4 (1#1 :: List.replicate (4 + z) 0#1) =
    .ok (.plus :: [LineSymbol.zero, .zero, .zero, .plus] ++
      ((List.range (z / 4)).map (fun r => if r % 2 = 0 then [LineSymbol.minus, .zero, .zero, .minus]
        else [LineSymbol.plus, .zero, .zero, .plus])).flatten ++ List.replicate (z % 4) .zero)
end

