-- ==== Sys2Proof/Laws/State.lean ====
section
/-! SUPPORT. One lemma for each field of State and each named update, so that no proof unfolds a record update. -/

namespace Sys2Proof.Machine

/-! ### putSymbol -/

@[simp] theorem putSymbol_kind (s : State) (j : Nat) (v : LineSymbol) : (s.putSymbol j v).kind = s.kind := rfl
@[simp] theorem putSymbol_len (s : State) (j : Nat) (v : LineSymbol) : (s.putSymbol j v).len = s.len := rfl
@[simp] theorem putSymbol_status (s : State) (j : Nat) (v : LineSymbol) : (s.putSymbol j v).status = s.status := rfl
@[simp] theorem putSymbol_olen (s : State) (j : Nat) (v : LineSymbol) : (s.putSymbol j v).olen = s.olen := rfl
@[simp] theorem putSymbol_work (s : State) (j : Nat) (v : LineSymbol) : (s.putSymbol j v).work = s.work := rfl
@[simp] theorem putSymbol_ibuf (s : State) (j : Nat) (v : LineSymbol) : (s.putSymbol j v).ibuf = s.ibuf := rfl
@[simp] theorem putSymbol_obuf (s : State) (j : Nat) (v : LineSymbol) :
  (s.putSymbol j v).obuf = bufWrite s.obuf j v.code := rfl
@[simp] theorem putSymbol_nMax (s : State) (j : Nat) (v : LineSymbol) : (s.putSymbol j v).nMax = s.nMax := rfl
@[simp] theorem putSymbol_inputs (s : State) (j : Nat) (v : LineSymbol) : (s.putSymbol j v).inputs = s.inputs := rfl
@[simp] theorem putSymbol_replies (s : State) (j : Nat) (v : LineSymbol) : (s.putSymbol j v).replies = s.replies := rfl
@[simp] theorem putSymbol_draws (s : State) (j : Nat) (v : LineSymbol) : (s.putSymbol j v).draws = s.draws := rfl
@[simp] theorem putSymbol_resets (s : State) (j : Nat) (v : LineSymbol) : (s.putSymbol j v).resets = s.resets := rfl

/-! ### putBit -/

@[simp] theorem putBit_kind (s : State) (i : Nat) (b : Bit) : (s.putBit i b).kind = s.kind := rfl
@[simp] theorem putBit_len (s : State) (i : Nat) (b : Bit) : (s.putBit i b).len = s.len := rfl
@[simp] theorem putBit_status (s : State) (i : Nat) (b : Bit) : (s.putBit i b).status = s.status := rfl
@[simp] theorem putBit_olen (s : State) (i : Nat) (b : Bit) : (s.putBit i b).olen = s.olen := rfl
@[simp] theorem putBit_work (s : State) (i : Nat) (b : Bit) : (s.putBit i b).work = s.work := rfl
@[simp] theorem putBit_ibuf (s : State) (i : Nat) (b : Bit) : (s.putBit i b).ibuf = bufWrite s.ibuf i b := rfl
@[simp] theorem putBit_obuf (s : State) (i : Nat) (b : Bit) : (s.putBit i b).obuf = s.obuf := rfl
@[simp] theorem putBit_nMax (s : State) (i : Nat) (b : Bit) : (s.putBit i b).nMax = s.nMax := rfl
@[simp] theorem putBit_inputs (s : State) (i : Nat) (b : Bit) : (s.putBit i b).inputs = s.inputs := rfl
@[simp] theorem putBit_replies (s : State) (i : Nat) (b : Bit) : (s.putBit i b).replies = s.replies := rfl
@[simp] theorem putBit_draws (s : State) (i : Nat) (b : Bit) : (s.putBit i b).draws = s.draws := rfl
@[simp] theorem putBit_resets (s : State) (i : Nat) (b : Bit) : (s.putBit i b).resets = s.resets := rfl

/-! ### putPair -/

@[simp] theorem putPair_kind (s : State) (p : LineSymbol × LineSymbol) : (s.putPair p).kind = s.kind := rfl
@[simp] theorem putPair_len (s : State) (p : LineSymbol × LineSymbol) : (s.putPair p).len = s.len := rfl
@[simp] theorem putPair_status (s : State) (p : LineSymbol × LineSymbol) : (s.putPair p).status = s.status := rfl
@[simp] theorem putPair_olen (s : State) (p : LineSymbol × LineSymbol) : (s.putPair p).olen = s.olen := rfl
@[simp] theorem putPair_work (s : State) (p : LineSymbol × LineSymbol) : (s.putPair p).work = s.work := rfl
@[simp] theorem putPair_ibuf (s : State) (p : LineSymbol × LineSymbol) : (s.putPair p).ibuf = s.ibuf := rfl
@[simp] theorem putPair_obuf (s : State) (p : LineSymbol × LineSymbol) :
  (s.putPair p).obuf = bufWrite (bufWrite s.obuf (2 * s.pos) p.1.code) (2 * s.pos + 1) p.2.code := rfl
@[simp] theorem putPair_nMax (s : State) (p : LineSymbol × LineSymbol) : (s.putPair p).nMax = s.nMax := rfl
@[simp] theorem putPair_inputs (s : State) (p : LineSymbol × LineSymbol) : (s.putPair p).inputs = s.inputs := rfl
@[simp] theorem putPair_replies (s : State) (p : LineSymbol × LineSymbol) : (s.putPair p).replies = s.replies := rfl
@[simp] theorem putPair_draws (s : State) (p : LineSymbol × LineSymbol) : (s.putPair p).draws = s.draws := rfl
@[simp] theorem putPair_resets (s : State) (p : LineSymbol × LineSymbol) : (s.putPair p).resets = s.resets := rfl

/-! ### advance -/

@[simp] theorem advance_kind (s : State) : (s.advance).kind = s.kind := rfl
@[simp] theorem advance_len (s : State) : (s.advance).len = s.len := rfl
@[simp] theorem advance_status (s : State) : (s.advance).status = s.status := rfl
@[simp] theorem advance_olen (s : State) : (s.advance).olen = s.olen := rfl
@[simp] theorem advance_work (s : State) : (s.advance).work = { s.work with idx := s.work.idx + 1#32 } := rfl
@[simp] theorem advance_ibuf (s : State) : (s.advance).ibuf = s.ibuf := rfl
@[simp] theorem advance_obuf (s : State) : (s.advance).obuf = s.obuf := rfl
@[simp] theorem advance_nMax (s : State) : (s.advance).nMax = s.nMax := rfl
@[simp] theorem advance_inputs (s : State) : (s.advance).inputs = s.inputs := rfl
@[simp] theorem advance_replies (s : State) : (s.advance).replies = s.replies := rfl
@[simp] theorem advance_draws (s : State) : (s.advance).draws = s.draws := rfl
@[simp] theorem advance_resets (s : State) : (s.advance).resets = s.resets := rfl

/-! ### setPol -/

@[simp] theorem setPol_kind (s : State) (p : Bit) : (s.setPol p).kind = s.kind := rfl
@[simp] theorem setPol_len (s : State) (p : Bit) : (s.setPol p).len = s.len := rfl
@[simp] theorem setPol_status (s : State) (p : Bit) : (s.setPol p).status = s.status := rfl
@[simp] theorem setPol_olen (s : State) (p : Bit) : (s.setPol p).olen = s.olen := rfl
@[simp] theorem setPol_work (s : State) (p : Bit) : (s.setPol p).work = { s.work with pol := p } := rfl
@[simp] theorem setPol_ibuf (s : State) (p : Bit) : (s.setPol p).ibuf = s.ibuf := rfl
@[simp] theorem setPol_obuf (s : State) (p : Bit) : (s.setPol p).obuf = s.obuf := rfl
@[simp] theorem setPol_nMax (s : State) (p : Bit) : (s.setPol p).nMax = s.nMax := rfl
@[simp] theorem setPol_inputs (s : State) (p : Bit) : (s.setPol p).inputs = s.inputs := rfl
@[simp] theorem setPol_replies (s : State) (p : Bit) : (s.setPol p).replies = s.replies := rfl
@[simp] theorem setPol_draws (s : State) (p : Bit) : (s.setPol p).draws = s.draws := rfl
@[simp] theorem setPol_resets (s : State) (p : Bit) : (s.setPol p).resets = s.resets := rfl

/-! ### setLvl -/

@[simp] theorem setLvl_kind (s : State) (l : Bit) : (s.setLvl l).kind = s.kind := rfl
@[simp] theorem setLvl_len (s : State) (l : Bit) : (s.setLvl l).len = s.len := rfl
@[simp] theorem setLvl_status (s : State) (l : Bit) : (s.setLvl l).status = s.status := rfl
@[simp] theorem setLvl_olen (s : State) (l : Bit) : (s.setLvl l).olen = s.olen := rfl
@[simp] theorem setLvl_work (s : State) (l : Bit) : (s.setLvl l).work = { s.work with lvl := l } := rfl
@[simp] theorem setLvl_ibuf (s : State) (l : Bit) : (s.setLvl l).ibuf = s.ibuf := rfl
@[simp] theorem setLvl_obuf (s : State) (l : Bit) : (s.setLvl l).obuf = s.obuf := rfl
@[simp] theorem setLvl_nMax (s : State) (l : Bit) : (s.setLvl l).nMax = s.nMax := rfl
@[simp] theorem setLvl_inputs (s : State) (l : Bit) : (s.setLvl l).inputs = s.inputs := rfl
@[simp] theorem setLvl_replies (s : State) (l : Bit) : (s.setLvl l).replies = s.replies := rfl
@[simp] theorem setLvl_draws (s : State) (l : Bit) : (s.setLvl l).draws = s.draws := rfl
@[simp] theorem setLvl_resets (s : State) (l : Bit) : (s.setLvl l).resets = s.resets := rfl

/-! ### setZcnt -/

@[simp] theorem setZcnt_kind (s : State) (z : BitVec 3) : (s.setZcnt z).kind = s.kind := rfl
@[simp] theorem setZcnt_len (s : State) (z : BitVec 3) : (s.setZcnt z).len = s.len := rfl
@[simp] theorem setZcnt_status (s : State) (z : BitVec 3) : (s.setZcnt z).status = s.status := rfl
@[simp] theorem setZcnt_olen (s : State) (z : BitVec 3) : (s.setZcnt z).olen = s.olen := rfl
@[simp] theorem setZcnt_work (s : State) (z : BitVec 3) : (s.setZcnt z).work = { s.work with zcnt := z } := rfl
@[simp] theorem setZcnt_ibuf (s : State) (z : BitVec 3) : (s.setZcnt z).ibuf = s.ibuf := rfl
@[simp] theorem setZcnt_obuf (s : State) (z : BitVec 3) : (s.setZcnt z).obuf = s.obuf := rfl
@[simp] theorem setZcnt_nMax (s : State) (z : BitVec 3) : (s.setZcnt z).nMax = s.nMax := rfl
@[simp] theorem setZcnt_inputs (s : State) (z : BitVec 3) : (s.setZcnt z).inputs = s.inputs := rfl
@[simp] theorem setZcnt_replies (s : State) (z : BitVec 3) : (s.setZcnt z).replies = s.replies := rfl
@[simp] theorem setZcnt_draws (s : State) (z : BitVec 3) : (s.setZcnt z).draws = s.draws := rfl
@[simp] theorem setZcnt_resets (s : State) (z : BitVec 3) : (s.setZcnt z).resets = s.resets := rfl

/-! ### setRecord -/

@[simp] theorem setRecord_kind (s : State) (n : Nat) (c : Parity) : (s.setRecord n c).kind = s.kind := rfl
@[simp] theorem setRecord_len (s : State) (n : Nat) (c : Parity) : (s.setRecord n c).len = s.len := rfl
@[simp] theorem setRecord_status (s : State) (n : Nat) (c : Parity) : (s.setRecord n c).status = s.status := rfl
@[simp] theorem setRecord_olen (s : State) (n : Nat) (c : Parity) : (s.setRecord n c).olen = s.olen := rfl
@[simp] theorem setRecord_work (s : State) (n : Nat) (c : Parity) : (s.setRecord n c).work =
    { s.work with pvalid := true, pstart := BitVec.ofNat 32 n, pclass := c } := rfl
@[simp] theorem setRecord_ibuf (s : State) (n : Nat) (c : Parity) : (s.setRecord n c).ibuf = s.ibuf := rfl
@[simp] theorem setRecord_obuf (s : State) (n : Nat) (c : Parity) : (s.setRecord n c).obuf = s.obuf := rfl
@[simp] theorem setRecord_nMax (s : State) (n : Nat) (c : Parity) : (s.setRecord n c).nMax = s.nMax := rfl
@[simp] theorem setRecord_inputs (s : State) (n : Nat) (c : Parity) : (s.setRecord n c).inputs = s.inputs := rfl
@[simp] theorem setRecord_replies (s : State) (n : Nat) (c : Parity) : (s.setRecord n c).replies = s.replies := rfl
@[simp] theorem setRecord_draws (s : State) (n : Nat) (c : Parity) : (s.setRecord n c).draws = s.draws := rfl
@[simp] theorem setRecord_resets (s : State) (n : Nat) (c : Parity) : (s.setRecord n c).resets = s.resets := rfl

/-! ### reply -/

@[simp] theorem reply_kind (s : State) (r : Reply) : (s.reply r).kind = s.kind := rfl
@[simp] theorem reply_len (s : State) (r : Reply) : (s.reply r).len = s.len := rfl
@[simp] theorem reply_status (s : State) (r : Reply) : (s.reply r).status = s.status := rfl
@[simp] theorem reply_olen (s : State) (r : Reply) : (s.reply r).olen = s.olen := rfl
@[simp] theorem reply_work (s : State) (r : Reply) : (s.reply r).work = s.work := rfl
@[simp] theorem reply_ibuf (s : State) (r : Reply) : (s.reply r).ibuf = s.ibuf := rfl
@[simp] theorem reply_obuf (s : State) (r : Reply) : (s.reply r).obuf = s.obuf := rfl
@[simp] theorem reply_nMax (s : State) (r : Reply) : (s.reply r).nMax = s.nMax := rfl
@[simp] theorem reply_inputs (s : State) (r : Reply) : (s.reply r).inputs = s.inputs := rfl
@[simp] theorem reply_replies (s : State) (r : Reply) : (s.reply r).replies = s.replies ++ [r] := rfl
@[simp] theorem reply_draws (s : State) (r : Reply) : (s.reply r).draws = s.draws := rfl
@[simp] theorem reply_resets (s : State) (r : Reply) : (s.reply r).resets = s.resets := rfl

/-! ### raiseFault -/

@[simp] theorem raiseFault_kind (s : State) (c : Cause) (i : Info) : (raiseFault c i s).kind = s.kind := rfl
@[simp] theorem raiseFault_len (s : State) (c : Cause) (i : Info) : (raiseFault c i s).len = s.len := rfl
@[simp] theorem raiseFault_status (s : State) (c : Cause) (i : Info) : (raiseFault c i s).status = ⟨.fault, c, i⟩ := rfl
@[simp] theorem raiseFault_olen (s : State) (c : Cause) (i : Info) : (raiseFault c i s).olen = s.olen := rfl
@[simp] theorem raiseFault_work (s : State) (c : Cause) (i : Info) : (raiseFault c i s).work = s.work := rfl
@[simp] theorem raiseFault_ibuf (s : State) (c : Cause) (i : Info) : (raiseFault c i s).ibuf = s.ibuf := rfl
@[simp] theorem raiseFault_obuf (s : State) (c : Cause) (i : Info) : (raiseFault c i s).obuf = s.obuf := rfl
@[simp] theorem raiseFault_nMax (s : State) (c : Cause) (i : Info) : (raiseFault c i s).nMax = s.nMax := rfl
@[simp] theorem raiseFault_inputs (s : State) (c : Cause) (i : Info) : (raiseFault c i s).inputs = s.inputs := rfl
@[simp] theorem raiseFault_replies (s : State) (c : Cause) (i : Info) : (raiseFault c i s).replies = s.replies := rfl
@[simp] theorem raiseFault_draws (s : State) (c : Cause) (i : Info) : (raiseFault c i s).draws = s.draws := rfl
@[simp] theorem raiseFault_resets (s : State) (c : Cause) (i : Info) : (raiseFault c i s).resets = s.resets := rfl

/-! ### clearOutcome -/

@[simp] theorem clearOutcome_kind (s : State) : (clearOutcome s).kind = s.kind := rfl
@[simp] theorem clearOutcome_len (s : State) : (clearOutcome s).len = s.len := rfl
@[simp] theorem clearOutcome_status (s : State) : (clearOutcome s).status = ⟨s.status.st, .none, .none⟩ := rfl
@[simp] theorem clearOutcome_olen (s : State) : (clearOutcome s).olen = 0#32 := rfl
@[simp] theorem clearOutcome_work (s : State) : (clearOutcome s).work = s.work := rfl
@[simp] theorem clearOutcome_ibuf (s : State) : (clearOutcome s).ibuf = s.ibuf := rfl
@[simp] theorem clearOutcome_obuf (s : State) : (clearOutcome s).obuf = s.obuf := rfl
@[simp] theorem clearOutcome_nMax (s : State) : (clearOutcome s).nMax = s.nMax := rfl
@[simp] theorem clearOutcome_inputs (s : State) : (clearOutcome s).inputs = s.inputs := rfl
@[simp] theorem clearOutcome_replies (s : State) : (clearOutcome s).replies = s.replies := rfl
@[simp] theorem clearOutcome_draws (s : State) : (clearOutcome s).draws = s.draws := rfl
@[simp] theorem clearOutcome_resets (s : State) : (clearOutcome s).resets = s.resets := rfl

/-! ### finishWith -/

@[simp] theorem finishWith_kind (s : State) (n : Word) : (finishWith n s).kind = s.kind := rfl
@[simp] theorem finishWith_len (s : State) (n : Word) : (finishWith n s).len = s.len := rfl
@[simp] theorem finishWith_status (s : State) (n : Word) :
  (finishWith n s).status = ⟨.done, s.status.cause, s.status.info⟩ := rfl
@[simp] theorem finishWith_olen (s : State) (n : Word) : (finishWith n s).olen = n := rfl
@[simp] theorem finishWith_work (s : State) (n : Word) : (finishWith n s).work = s.work := rfl
@[simp] theorem finishWith_ibuf (s : State) (n : Word) : (finishWith n s).ibuf = s.ibuf := rfl
@[simp] theorem finishWith_obuf (s : State) (n : Word) : (finishWith n s).obuf = s.obuf := rfl
@[simp] theorem finishWith_nMax (s : State) (n : Word) : (finishWith n s).nMax = s.nMax := rfl
@[simp] theorem finishWith_inputs (s : State) (n : Word) : (finishWith n s).inputs = s.inputs := rfl
@[simp] theorem finishWith_replies (s : State) (n : Word) : (finishWith n s).replies = s.replies := rfl
@[simp] theorem finishWith_draws (s : State) (n : Word) : (finishWith n s).draws = s.draws := rfl
@[simp] theorem finishWith_resets (s : State) (n : Word) : (finishWith n s).resets = s.resets := rfl

/-! ### enterP2 -/

@[simp] theorem enterP2_kind (s : State) : (enterP2 s).kind = s.kind := rfl
@[simp] theorem enterP2_len (s : State) : (enterP2 s).len = s.len := rfl
@[simp] theorem enterP2_status (s : State) : (enterP2 s).status = s.status := rfl
@[simp] theorem enterP2_olen (s : State) : (enterP2 s).olen = s.olen := rfl
@[simp] theorem enterP2_work (s : State) : (enterP2 s).work = { s.work with ph := .p2, idx := 0#32, zcnt := 0#3 } := rfl
@[simp] theorem enterP2_ibuf (s : State) : (enterP2 s).ibuf = s.ibuf := rfl
@[simp] theorem enterP2_obuf (s : State) : (enterP2 s).obuf = s.obuf := rfl
@[simp] theorem enterP2_nMax (s : State) : (enterP2 s).nMax = s.nMax := rfl
@[simp] theorem enterP2_inputs (s : State) : (enterP2 s).inputs = s.inputs := rfl
@[simp] theorem enterP2_replies (s : State) : (enterP2 s).replies = s.replies := rfl
@[simp] theorem enterP2_draws (s : State) : (enterP2 s).draws = s.draws := rfl
@[simp] theorem enterP2_resets (s : State) : (enterP2 s).resets = s.resets := rfl

/-! ### resetEvent -/

@[simp] theorem resetEvent_kind (s : State) : (resetEvent s).kind = 0#4 := rfl
@[simp] theorem resetEvent_len (s : State) : (resetEvent s).len = 0#32 := rfl
@[simp] theorem resetEvent_status (s : State) : (resetEvent s).status = ⟨.idle, .none, .none⟩ := rfl
@[simp] theorem resetEvent_olen (s : State) : (resetEvent s).olen = 0#32 := rfl
@[simp] theorem resetEvent_work (s : State) : (resetEvent s).work = Config.workAtReset (s.resets + 1) := rfl
@[simp] theorem resetEvent_ibuf (s : State) : (resetEvent s).ibuf = [] := rfl
@[simp] theorem resetEvent_obuf (s : State) : (resetEvent s).obuf = [] := rfl
@[simp] theorem resetEvent_nMax (s : State) : (resetEvent s).nMax = s.nMax := rfl
@[simp] theorem resetEvent_inputs (s : State) : (resetEvent s).inputs = s.inputs := rfl
@[simp] theorem resetEvent_replies (s : State) : (resetEvent s).replies = s.replies := rfl
@[simp] theorem resetEvent_draws (s : State) : (resetEvent s).draws = s.draws := rfl
@[simp] theorem resetEvent_resets (s : State) : (resetEvent s).resets = s.resets + 1 := rfl

/-! ### putSymbols -/

@[simp] theorem putSymbols_kind (s : State) (j : Nat) (pat : List LineSymbol) : (s.putSymbols j pat).kind = s.kind := by
  induction pat generalizing s j with
  | nil => rfl
  | cons v rest ih => simp [State.putSymbols, ih]

@[simp] theorem putSymbols_len (s : State) (j : Nat) (pat : List LineSymbol) : (s.putSymbols j pat).len = s.len := by
  induction pat generalizing s j with
  | nil => rfl
  | cons v rest ih => simp [State.putSymbols, ih]

@[simp] theorem putSymbols_status (s : State) (j : Nat) (pat : List LineSymbol) :
  (s.putSymbols j pat).status = s.status := by
  induction pat generalizing s j with
  | nil => rfl
  | cons v rest ih => simp [State.putSymbols, ih]

@[simp] theorem putSymbols_olen (s : State) (j : Nat) (pat : List LineSymbol) : (s.putSymbols j pat).olen = s.olen := by
  induction pat generalizing s j with
  | nil => rfl
  | cons v rest ih => simp [State.putSymbols, ih]

@[simp] theorem putSymbols_work (s : State) (j : Nat) (pat : List LineSymbol) : (s.putSymbols j pat).work = s.work := by
  induction pat generalizing s j with
  | nil => rfl
  | cons v rest ih => simp [State.putSymbols, ih]

@[simp] theorem putSymbols_ibuf (s : State) (j : Nat) (pat : List LineSymbol) : (s.putSymbols j pat).ibuf = s.ibuf := by
  induction pat generalizing s j with
  | nil => rfl
  | cons v rest ih => simp [State.putSymbols, ih]

@[simp] theorem putSymbols_nMax (s : State) (j : Nat) (pat : List LineSymbol) : (s.putSymbols j pat).nMax = s.nMax := by
  induction pat generalizing s j with
  | nil => rfl
  | cons v rest ih => simp [State.putSymbols, ih]

@[simp] theorem putSymbols_inputs (s : State) (j : Nat) (pat : List LineSymbol) :
  (s.putSymbols j pat).inputs = s.inputs := by
  induction pat generalizing s j with
  | nil => rfl
  | cons v rest ih => simp [State.putSymbols, ih]

@[simp] theorem putSymbols_replies (s : State) (j : Nat) (pat : List LineSymbol) :
  (s.putSymbols j pat).replies = s.replies := by
  induction pat generalizing s j with
  | nil => rfl
  | cons v rest ih => simp [State.putSymbols, ih]

@[simp] theorem putSymbols_draws (s : State) (j : Nat) (pat : List LineSymbol) :
  (s.putSymbols j pat).draws = s.draws := by
  induction pat generalizing s j with
  | nil => rfl
  | cons v rest ih => simp [State.putSymbols, ih]

@[simp] theorem putSymbols_resets (s : State) (j : Nat) (pat : List LineSymbol) :
  (s.putSymbols j pat).resets = s.resets := by
  induction pat generalizing s j with
  | nil => rfl
  | cons v rest ih => simp [State.putSymbols, ih]

/-! ### reads through updates -/

@[simp] theorem putSymbol_ibufRead (s : State) (j : Nat) (v : LineSymbol) (k : Nat) :
  (s.putSymbol j v).ibufRead k = s.ibufRead k := rfl
@[simp] theorem putSymbol_pos (s : State) (j : Nat) (v : LineSymbol) : (s.putSymbol j v).pos = s.pos := rfl
@[simp] theorem putBit_obufRead (s : State) (i : Nat) (b : Bit) (k : Nat) :
  (s.putBit i b).obufRead k = s.obufRead k := rfl
@[simp] theorem putBit_pos (s : State) (i : Nat) (b : Bit) : (s.putBit i b).pos = s.pos := rfl
@[simp] theorem putPair_ibufRead (s : State) (p : LineSymbol × LineSymbol) (k : Nat) :
  (s.putPair p).ibufRead k = s.ibufRead k := rfl
@[simp] theorem putPair_pos (s : State) (p : LineSymbol × LineSymbol) : (s.putPair p).pos = s.pos := rfl
@[simp] theorem advance_obufRead (s : State) (k : Nat) : (s.advance).obufRead k = s.obufRead k := rfl
@[simp] theorem advance_ibufRead (s : State) (k : Nat) : (s.advance).ibufRead k = s.ibufRead k := rfl
@[simp] theorem setPol_obufRead (s : State) (p : Bit) (k : Nat) : (s.setPol p).obufRead k = s.obufRead k := rfl
@[simp] theorem setPol_ibufRead (s : State) (p : Bit) (k : Nat) : (s.setPol p).ibufRead k = s.ibufRead k := rfl
@[simp] theorem setPol_pos (s : State) (p : Bit) : (s.setPol p).pos = s.pos := rfl
@[simp] theorem setLvl_obufRead (s : State) (l : Bit) (k : Nat) : (s.setLvl l).obufRead k = s.obufRead k := rfl
@[simp] theorem setLvl_ibufRead (s : State) (l : Bit) (k : Nat) : (s.setLvl l).ibufRead k = s.ibufRead k := rfl
@[simp] theorem setLvl_pos (s : State) (l : Bit) : (s.setLvl l).pos = s.pos := rfl
@[simp] theorem setZcnt_obufRead (s : State) (z : BitVec 3) (k : Nat) : (s.setZcnt z).obufRead k = s.obufRead k := rfl
@[simp] theorem setZcnt_ibufRead (s : State) (z : BitVec 3) (k : Nat) : (s.setZcnt z).ibufRead k = s.ibufRead k := rfl
@[simp] theorem setZcnt_pos (s : State) (z : BitVec 3) : (s.setZcnt z).pos = s.pos := rfl
@[simp] theorem setRecord_obufRead (s : State) (n : Nat) (c : Parity) (k : Nat) :
  (s.setRecord n c).obufRead k = s.obufRead k := rfl
@[simp] theorem setRecord_ibufRead (s : State) (n : Nat) (c : Parity) (k : Nat) :
  (s.setRecord n c).ibufRead k = s.ibufRead k := rfl
@[simp] theorem setRecord_pos (s : State) (n : Nat) (c : Parity) : (s.setRecord n c).pos = s.pos := rfl
@[simp] theorem reply_obufRead (s : State) (r : Reply) (k : Nat) : (s.reply r).obufRead k = s.obufRead k := rfl
@[simp] theorem reply_ibufRead (s : State) (r : Reply) (k : Nat) : (s.reply r).ibufRead k = s.ibufRead k := rfl
@[simp] theorem reply_pos (s : State) (r : Reply) : (s.reply r).pos = s.pos := rfl
@[simp] theorem raiseFault_obufRead (s : State) (c : Cause) (i : Info) (k : Nat) :
  (raiseFault c i s).obufRead k = s.obufRead k := rfl
@[simp] theorem raiseFault_ibufRead (s : State) (c : Cause) (i : Info) (k : Nat) :
  (raiseFault c i s).ibufRead k = s.ibufRead k := rfl
@[simp] theorem raiseFault_pos (s : State) (c : Cause) (i : Info) : (raiseFault c i s).pos = s.pos := rfl
@[simp] theorem clearOutcome_obufRead (s : State) (k : Nat) : (clearOutcome s).obufRead k = s.obufRead k := rfl
@[simp] theorem clearOutcome_ibufRead (s : State) (k : Nat) : (clearOutcome s).ibufRead k = s.ibufRead k := rfl
@[simp] theorem clearOutcome_pos (s : State) : (clearOutcome s).pos = s.pos := rfl
@[simp] theorem finishWith_obufRead (s : State) (n : Word) (k : Nat) : (finishWith n s).obufRead k = s.obufRead k := rfl
@[simp] theorem finishWith_ibufRead (s : State) (n : Word) (k : Nat) : (finishWith n s).ibufRead k = s.ibufRead k := rfl
@[simp] theorem finishWith_pos (s : State) (n : Word) : (finishWith n s).pos = s.pos := rfl
@[simp] theorem enterP2_obufRead (s : State) (k : Nat) : (enterP2 s).obufRead k = s.obufRead k := rfl
@[simp] theorem enterP2_ibufRead (s : State) (k : Nat) : (enterP2 s).ibufRead k = s.ibufRead k := rfl

@[simp] theorem putSymbols_ibufRead (s : State) (j : Nat) (pat : List LineSymbol) (k : Nat) :
    (s.putSymbols j pat).ibufRead k = s.ibufRead k := by
  simp [State.ibufRead]

@[simp] theorem putSymbols_pos (s : State) (j : Nat) (pat : List LineSymbol) : (s.putSymbols j pat).pos = s.pos := by
  simp [State.pos]

end Sys2Proof.Machine
end

