-- ==== Sys2Proof/Laws/Buffer.lean ====
section
/-! SUPPORT. The laws of the buffers: read after write, nothing else changes, and the canonical form is kept. -/

namespace Sys2Proof.Machine

section
variable {w : Nat}

@[simp] theorem bufLookup_write_same (b : Buf w) (i : Nat) (v : BitVec w) : bufLookup (bufWrite b i v) i = some v := by
  induction b with
  | nil => simp [bufWrite, bufLookup]
  | cons e rest ih =>
    obtain ⟨a, x⟩ := e
    simp only [bufWrite]
    split
    · simp [bufLookup]
    · split
      · simp [bufLookup]
      · simp [bufLookup, *]

theorem bufLookup_write_other (b : Buf w) {i j : Nat} (v : BitVec w) (h : j ≠ i) :
    bufLookup (bufWrite b i v) j = bufLookup b j := by
  induction b with
  | nil => simp [bufWrite, bufLookup, Ne.symm h]
  | cons e rest ih =>
    obtain ⟨a, x⟩ := e
    simp only [bufWrite]
    split
    · simp [bufLookup, Ne.symm h]
    · split
      · next ha => subst ha; simp [bufLookup, Ne.symm h]
      · simp [bufLookup, ih]

theorem bufLookup_write (b : Buf w) (i j : Nat) (v : BitVec w) :
    bufLookup (bufWrite b i v) j = if j = i then some v else bufLookup b j := by
  by_cases h : j = i
  · subst h; simp
  · simp [h, bufLookup_write_other b v h]

/-- What a write leaves in the list: the new entry and entries that were there. -/
theorem mem_bufWrite {b : Buf w} {i : Nat} {v : BitVec w} {e : Nat × BitVec w} (h : e ∈ bufWrite b i v) :
    e = (i, v) ∨ e ∈ b := by
  induction b with
  | nil => simpa [bufWrite] using h
  | cons x rest ih =>
    obtain ⟨a, y⟩ := x
    simp only [bufWrite] at h
    split at h
    · simpa using h
    · split at h
      · rcases List.mem_cons.1 h with h | h
        · exact .inl h
        · exact .inr (List.mem_cons_of_mem _ h)
      · rcases List.mem_cons.1 h with h | h
        · exact .inr (h ▸ List.mem_cons_self)
        · exact (ih h).imp id (List.mem_cons_of_mem _)

/-- A write keeps the canonical form. -/
theorem bufWrite_wf {b : Buf w} (hb : bufWf b) (i : Nat) (v : BitVec w) : bufWf (bufWrite b i v) := by
  induction b with
  | nil => simp [bufWrite, bufWf]
  | cons e rest ih =>
    obtain ⟨a, x⟩ := e
    obtain ⟨hlt, hrest⟩ := List.pairwise_cons.1 hb
    simp only [bufWrite]
    split
    · next hi =>
      refine List.pairwise_cons.2 ⟨?_, hb⟩
      intro e he
      rcases List.mem_cons.1 he with rfl | he
      · exact hi
      · exact lt_trans hi (hlt e he)
    · split
      · next ha => exact List.pairwise_cons.2 ⟨fun e he => ha ▸ hlt e he, hrest⟩
      · next hi ha =>
        refine List.pairwise_cons.2 ⟨?_, ih hrest⟩
        intro e he
        rcases mem_bufWrite he with rfl | he
        · simp only; omega
        · exact hlt e he

end

/-! ## Reads of a state after a write -/

theorem putSymbol_obufRead (s : State) (j : Nat) (v : LineSymbol) (k : Nat) :
    (s.putSymbol j v).obufRead k = if k = j then v.code else s.obufRead k := by
  by_cases h : k = j
  · subst h; simp [State.obufRead]
  · simp [State.obufRead, h, bufLookup_write_other s.obuf v.code h]

theorem putBit_ibufRead (s : State) (i : Nat) (b : Bit) (k : Nat) :
    (s.putBit i b).ibufRead k = if k = i then b else s.ibufRead k := by
  by_cases h : k = i
  · subst h; simp [State.ibufRead]
  · simp [State.ibufRead, h, bufLookup_write_other s.ibuf b h]

/-- What a pattern write stores: its symbols from `j` on, and nothing outside them. -/
theorem putSymbols_lookup (s : State) (j : Nat) (pat : List LineSymbol) (k : Nat) :
    bufLookup (s.putSymbols j pat).obuf k =
      if j ≤ k ∧ k < j + pat.length then (pat[k - j]?).map LineSymbol.code else bufLookup s.obuf k := by
  induction pat generalizing s j with
  | nil => simp [State.putSymbols]
  | cons v rest ih =>
    rw [State.putSymbols, ih, putSymbol_obuf, bufLookup_write]
    by_cases h1 : k = j
    · subst h1; simp
    · by_cases h2 : j ≤ k
      · have h3 : k - j = (k - (j + 1)) + 1 := by omega
        by_cases h4 : k < j + 1 + rest.length
        · rw [if_pos ⟨by omega, h4⟩, if_pos ⟨h2, by simp only [List.length_cons]; omega⟩, h3, List.getElem?_cons_succ]
        · rw [if_neg (by omega), if_neg h1, if_neg (by simp only [List.length_cons]; omega)]
      · rw [if_neg (by omega), if_neg h1, if_neg (by omega)]

theorem putSymbols_obufRead (s : State) (j : Nat) (pat : List LineSymbol) (k : Nat) :
    (s.putSymbols j pat).obufRead k =
      if j ≤ k ∧ k < j + pat.length then (pat.getD (k - j) .zero).code else s.obufRead k := by
  unfold State.obufRead
  rw [putSymbols_lookup, putSymbols_resets]
  by_cases h : j ≤ k ∧ k < j + pat.length
  · have h' : k - j < pat.length := by omega
    simp [h, h']
  · simp only [if_neg h]

/-- Reads of OBUF through both writes of a Manchester cycle. -/
theorem putPair_obufRead (s : State) (p : LineSymbol × LineSymbol) (k : Nat) :
    (s.putPair p).obufRead k =
      if k = 2 * s.pos + 1 then p.2.code else if k = 2 * s.pos then p.1.code else s.obufRead k := by
  simp [State.putPair, putSymbol_obufRead]

/-! ## Every memory operation keeps the canonical form -/

theorem putSymbol_wf {s : State} (h : Memory.wf s) (j : Nat) (v : LineSymbol) : Memory.wf (s.putSymbol j v) :=
  ⟨h.1, bufWrite_wf h.2 j v.code⟩

theorem putBit_wf {s : State} (h : Memory.wf s) (i : Nat) (b : Bit) : Memory.wf (s.putBit i b) :=
  ⟨bufWrite_wf h.1 i b, h.2⟩

theorem putSymbols_wf {s : State} (h : Memory.wf s) (j : Nat) (pat : List LineSymbol) :
    Memory.wf (s.putSymbols j pat) := by
  induction pat generalizing s j with
  | nil => exact h
  | cons v rest ih => exact ih (putSymbol_wf h j v) (j + 1)

theorem putPair_wf {s : State} (h : Memory.wf s) (p : LineSymbol × LineSymbol) : Memory.wf (s.putPair p) :=
  putSymbol_wf (putSymbol_wf h _ _) _ _

theorem afterReset_wf (cap epoch : Nat) : Memory.wf (State.afterReset cap epoch) :=
  ⟨List.Pairwise.nil, List.Pairwise.nil⟩

theorem reset_wf : Memory.wf State.reset := afterReset_wf Config.nMax 0

end Sys2Proof.Machine
end

