-- ==== Sys2Proof/Laws/Codes.lean ====
section
/-! SUPPORT. The laws of the codes: symbols, the selector KIND[3:0], and the checks of START. -/

namespace Sys2Proof

@[simp] theorem symOfCode_code (v : LineSymbol) : symOfCode v.code = some v := by cases v <;> rfl

theorem LineSymbol.code_injective {v u : LineSymbol} (h : v.code = u.code) : v = u := by
  have := congrArg symOfCode h
  simpa using this

/-- Only a symbol's own code reads back as that symbol. -/
theorem symOfCode_eq_some {c : SymCode} {v : LineSymbol} : symOfCode c = some v ↔ c = v.code := by
  constructor
  · revert c
    cases v <;> decide
  · rintro rfl; simp

@[simp] theorem LineSymbol.code_eq_zero {v : LineSymbol} : v.code = 0b00#2 ↔ v = .zero := by cases v <;> decide

theorem LineSymbol.code_ne_two (v : LineSymbol) : v.code ≠ 0b10#2 := by cases v <;> decide

@[simp] theorem LineSymbol.neg_eq_zero {v : LineSymbol} : v.neg = .zero ↔ v = .zero := by cases v <;> decide

/-- Two cases of a bit. -/
theorem bit_cases (b : Bit) : b = 0#1 ∨ b = 1#1 := by revert b; decide

@[simp] theorem kindField_setWidth (k : BitVec 4) : kindField (k.setWidth 32) = k := by simp [kindField]

/-- Only KIND[3:0] of a register word selects. -/
theorem decode_pair (kind len : Word) : decode [kind, len] = .ok (commandOf (kindField kind) len) := rfl

namespace Machine

theorem needsElement_iff (k : BitVec 4) : needsElement k = true ↔ k = 2#4 ∨ k = 6#4 ∨ k = 7#4 ∨ k = 8#4 := by
  simp [needsElement, or_assoc]

/-- START's three checks pass exactly on the well-formed commands. -/
theorem startCheck_eq_none (cap : Nat) (i : Instr) : startCheck cap i = none ↔ wellFormed cap i = true := by
  cases i <;>
    simp [startCheck, wellFormed, namesOperation, frameFits, hasNeededElement, Instr.code, Instr.len, needsElement] <;>
    split <;> simp_all

/-- The faults that START can raise. -/
theorem startCheck_eq_some {cap : Nat} {i : Instr} {f : Cause × Info} (h : startCheck cap i = some f) :
    f = (.invalidKind, .none) ∨ f = (.invalidInput, .lenRange) ∨ f = (.invalidInput, .empty) := by
  unfold startCheck at h
  split at h
  · exact .inl (Option.some.inj h).symm
  · split at h
    · exact .inr (.inl (Option.some.inj h).symm)
    · split at h
      · exact .inr (.inr (Option.some.inj h).symm)
      · cases h

end Machine

end Sys2Proof
end

