-- ==== Sys2Proof/Laws/Ops.lean ====
section
/-! SUPPORT. For each shared operation, once, everything it can do: cited by the proofs instead of unfolding it. -/

namespace Sys2Proof.Machine

/-! ## Pass P1 -/

theorem passOne_next {f g : State → State} {s t : State} (h : passOne f g s = .next t) :
    (s.work.idx.toNat < s.work.n.toNat ∧ t = (f s).advance) ∨ (s.work.idx = s.work.n ∧ t = g s) := by
  unfold passOne at h
  split at h
  · next hlt => exact .inl ⟨hlt, by cases h; rfl⟩
  · split at h
    · next heq => exact .inr ⟨heq, by cases h; rfl⟩
    · cases h

theorem passOne_step {f g : State → State} {s : State} (h : s.work.idx.toNat < s.work.n.toNat) :
    passOne f g s = .next (f s).advance := by
  simp [passOne, h]

theorem passOne_end {f g : State → State} {s : State} (h : s.work.idx = s.work.n) : passOne f g s = .next (g s) := by
  simp [passOne, h]

/-! ## Pass P2 -/

theorem blockIsZero_iff {L s0 : Nat} {s : State} :
    blockIsZero L s0 s = true ↔ ∀ k, k < L → s.obufRead (s0 + k) = 0b00#2 := by
  simp [blockIsZero]

/-- A replacement writes only after a pulse, over zeros, and not at index 0. -/
theorem replaceBlock_wrote {L s0 : Nat} {f : LineSymbol → State → State} {s t : State}
    (h : replaceBlock L s0 f s = .wrote t) :
    s0 ≠ 0 ∧ (∀ k, k < L → s.obufRead (s0 + k) = 0b00#2) ∧
      ∃ p : LineSymbol, p ≠ .zero ∧ s.obufRead (s0 - 1) = p.code ∧ t = f p s := by
  unfold replaceBlock at h
  split at h
  · cases h
  · next h0 =>
    split at h
    · next hz =>
      refine ⟨h0, blockIsZero_iff.1 hz, ?_⟩
      split at h
      · cases h
      · cases h
      · next hp => exact ⟨.minus, by decide, symOfCode_eq_some.1 hp, by cases h; rfl⟩
      · next hp => exact ⟨.plus, by decide, symOfCode_eq_some.1 hp, by cases h; rfl⟩
    · cases h

/-- A replacement raises NO_PRECEDING exactly at index 0, and an internal violation only where a test of R133 or R152
fails. -/
theorem replaceBlock_raised {L s0 : Nat} {f : LineSymbol → State → State} {s : State} {c : Cause} {i : Info}
    (h : replaceBlock L s0 f s = .raised c i) :
    (s0 = 0 ∧ c = .invalidInput ∧ i = .noPreceding) ∨
    (s0 ≠ 0 ∧ s.obufRead (s0 - 1) = 0b00#2 ∧ c = .internalInvariantViolation ∧ i = .precedingZero) ∨
    (s0 ≠ 0 ∧ (∃ k, k < L ∧ s.obufRead (s0 + k) ≠ 0b00#2) ∧ c = .internalInvariantViolation ∧ i = .runShape) := by
  unfold replaceBlock at h
  split at h
  · next h0 => cases h; exact .inl ⟨h0, rfl, rfl⟩
  · next h0 =>
    split at h
    · split at h
      · cases h
      · next hp => cases h; exact .inr (.inl ⟨h0, symOfCode_eq_some.1 hp, rfl, rfl⟩)
      · cases h
      · cases h
    · next hz =>
      cases h
      have : ∃ k, k < L ∧ s.obufRead (s0 + k) ≠ 0b00#2 := by
        by_contra hne
        push Not at hne
        exact hz (blockIsZero_iff.2 hne)
      exact .inr (.inr ⟨h0, this, rfl, rfl⟩)

/-- A replacement is stuck only on a preceding code that is no symbol's. -/
theorem replaceBlock_stuck {L s0 : Nat} {f : LineSymbol → State → State} {s : State} {e : Fault}
    (h : replaceBlock L s0 f s = .stuck e) : e = .obufNotASymbol ∧ symOfCode (s.obufRead (s0 - 1)) = none := by
  unfold replaceBlock at h
  split at h
  · cases h
  · split at h
    · split at h
      · next hp => cases h; exact ⟨rfl, hp⟩
      · cases h
      · cases h
      · cases h
    · cases h

/-- Where all the tests pass, the replacement writes. -/
theorem replaceBlock_writes {L s0 : Nat} {f : LineSymbol → State → State} {s : State} {p : LineSymbol} (h0 : s0 ≠ 0)
    (hz : ∀ k, k < L → s.obufRead (s0 + k) = 0b00#2) (hp : p ≠ .zero) (hr : s.obufRead (s0 - 1) = p.code) :
    replaceBlock L s0 f s = .wrote (f p s) := by
  unfold replaceBlock
  rw [if_neg h0, if_pos (blockIsZero_iff.2 hz), hr, symOfCode_code]
  cases p with
  | zero => exact absurd rfl hp
  | minus => rfl
  | plus => rfl

theorem replaceBlock_first (L : Nat) (f : LineSymbol → State → State) (s : State) :
    replaceBlock L 0 f s = .raised .invalidInput .noPreceding := by
  simp [replaceBlock]

/-- The four ways a P2 step can go on: past a pulse, past a zero that ends no block, past a replaced block, or into a
fault of the spec. -/
theorem scanStep_next {L : Nat} {r : Nat → State → Replaced} {s t : State} (h : scanStep L r s = .next t) :
    (s.obufRead s.pos ≠ 0b00#2 ∧ t = (s.setZcnt 0#3).advance) ∨
    (s.obufRead s.pos = 0b00#2 ∧ s.work.zcnt.toNat + 1 < L ∧ t = (s.setZcnt (s.work.zcnt + 1#3)).advance) ∨
    (s.obufRead s.pos = 0b00#2 ∧ L ≤ s.work.zcnt.toNat + 1 ∧
      ∃ u, r (s.pos + 1 - L) (s.setZcnt 0#3) = .wrote u ∧ t = u.advance) ∨
    (s.obufRead s.pos = 0b00#2 ∧ L ≤ s.work.zcnt.toNat + 1 ∧
      ∃ c i, r (s.pos + 1 - L) (s.setZcnt 0#3) = .raised c i ∧ t = raiseFault c i (s.setZcnt 0#3)) := by
  unfold scanStep at h
  split at h
  · next hv => cases h; exact .inl ⟨hv, rfl⟩
  · next hv =>
    have hv : s.obufRead s.pos = 0b00#2 := not_not.1 hv
    split at h
    · next hz => cases h; exact .inr (.inl ⟨hv, hz, rfl⟩)
    · next hz =>
      split at h
      · next u hu => cases h; exact .inr (.inr (.inl ⟨hv, by omega, u, hu, rfl⟩))
      · next c i hu => cases h; exact .inr (.inr (.inr ⟨hv, by omega, c, i, hu, rfl⟩))
      · cases h

theorem scanStep_pulse {L : Nat} {r : Nat → State → Replaced} {s : State} (hv : s.obufRead s.pos ≠ 0b00#2) :
    scanStep L r s = .next (s.setZcnt 0#3).advance := by
  simp [scanStep, hv]

theorem scanStep_zero {L : Nat} {r : Nat → State → Replaced} {s : State} (hv : s.obufRead s.pos = 0b00#2)
    (hz : s.work.zcnt.toNat + 1 < L) : scanStep L r s = .next (s.setZcnt (s.work.zcnt + 1#3)).advance := by
  simp [scanStep, hv, hz]

theorem scanStep_wrote {L : Nat} {r : Nat → State → Replaced} {s u : State} (hv : s.obufRead s.pos = 0b00#2)
    (hz : L ≤ s.work.zcnt.toNat + 1) (hu : r (s.pos + 1 - L) (s.setZcnt 0#3) = .wrote u) :
    scanStep L r s = .next u.advance := by
  simp [scanStep, hv, Nat.not_lt.2 hz, hu]

theorem scanStep_raised {L : Nat} {r : Nat → State → Replaced} {s : State} {c : Cause} {i : Info}
    (hv : s.obufRead s.pos = 0b00#2) (hz : L ≤ s.work.zcnt.toNat + 1)
    (hu : r (s.pos + 1 - L) (s.setZcnt 0#3) = .raised c i) :
    scanStep L r s = .next (raiseFault c i (s.setZcnt 0#3)) := by
  simp [scanStep, hv, Nat.not_lt.2 hz, hu]

theorem passTwo_next {L : Nat} {r : Nat → State → Replaced} {s t : State} (h : passTwo L r s = .next t) :
    (s.work.idx.toNat < s.work.n.toNat ∧ scanStep L r s = .next t) ∨
    (s.work.idx = s.work.n ∧ t = finishWith s.work.n s) := by
  unfold passTwo at h
  split at h
  · next hlt => exact .inl ⟨hlt, h⟩
  · split at h
    · next heq => exact .inr ⟨heq, by cases h; rfl⟩
    · cases h

theorem passTwo_scan {L : Nat} {r : Nat → State → Replaced} {s : State} (h : s.work.idx.toNat < s.work.n.toNat) :
    passTwo L r s = scanStep L r s := by
  simp [passTwo, h]

theorem passTwo_end {L : Nat} {r : Nat → State → Replaced} {s : State} (h : s.work.idx = s.work.n) :
    passTwo L r s = .next (finishWith s.work.n s) := by
  simp [passTwo, h]

/-! ## The next event of a command -/

theorem singlePass_idle {i : Instr} {f g : State → State} {s : State} (h : s.busy = false) :
    singlePass i f g s = .next (startCommand i s) := by
  simp [singlePass, h]

theorem singlePass_busy {i : Instr} {f g : State → State} {s : State} (h : s.busy = true) (hp : s.work.ph = .p1) :
    singlePass i f g s = passOne f g s := by
  simp [singlePass, h, hp]

theorem singlePass_next {i : Instr} {f g : State → State} {s t : State} (h : singlePass i f g s = .next t) :
    (s.busy = false ∧ t = startCommand i s) ∨ (s.busy = true ∧ s.work.ph = .p1 ∧ passOne f g s = .next t) := by
  unfold singlePass at h
  split at h
  · next hb =>
    split at h
    · next hp => exact .inr ⟨hb, hp, h⟩
    · cases h
  · next hb => exact .inl ⟨by simpa using hb, by cases h; rfl⟩

theorem doublePass_idle {i : Instr} {f : State → State} {L : Nat} {r : Nat → State → Replaced} {s : State}
    (h : s.busy = false) : doublePass i f L r s = .next (startCommand i s) := by
  simp [doublePass, h]

theorem doublePass_p1 {i : Instr} {f : State → State} {L : Nat} {r : Nat → State → Replaced} {s : State}
    (h : s.busy = true) (hp : s.work.ph = .p1) : doublePass i f L r s = passOne f enterP2 s := by
  simp [doublePass, h, hp]

theorem doublePass_p2 {i : Instr} {f : State → State} {L : Nat} {r : Nat → State → Replaced} {s : State}
    (h : s.busy = true) (hp : s.work.ph = .p2) : doublePass i f L r s = passTwo L r s := by
  simp [doublePass, h, hp]

theorem doublePass_next {i : Instr} {f : State → State} {L : Nat} {r : Nat → State → Replaced} {s t : State}
    (h : doublePass i f L r s = .next t) :
    (s.busy = false ∧ t = startCommand i s) ∨
    (s.busy = true ∧ s.work.ph = .p1 ∧ passOne f enterP2 s = .next t) ∨
    (s.busy = true ∧ s.work.ph = .p2 ∧ passTwo L r s = .next t) := by
  unfold doublePass at h
  split at h
  · next hb =>
    split at h
    · next hp => exact .inr (.inl ⟨hb, hp, h⟩)
    · next hp => exact .inr (.inr ⟨hb, hp, h⟩)
  · next hb => exact .inl ⟨by simpa using hb, by cases h; rfl⟩

theorem reservedCommand_next {i : Instr} {s t : State} (h : reservedCommand i s = .next t) :
    s.busy = false ∧ t = startCommand i s := by
  unfold reservedCommand at h
  split at h
  · cases h
  · next hb => exact ⟨by simpa using hb, by cases h; rfl⟩

/-! ## START -/

/-- An accepted START either records the fault of its first failing check, or starts the operation. -/
theorem startCommand_cases (i : Instr) (s : State) :
    (∃ c f, startCheck s.nMax i = some (c, f) ∧ startCommand i s = raiseFault c f (clearOutcome s)) ∨
    (startCheck s.nMax i = none ∧
      startCommand i s = { clearOutcome s with work := Work.initial i, status := ⟨.busy, .none, .none⟩ }) := by
  unfold startCommand
  cases h : startCheck s.nMax i with
  | none => exact .inr ⟨rfl, rfl⟩
  | some f => obtain ⟨c, f⟩ := f; exact .inl ⟨c, f, rfl, rfl⟩

/-! ## Host accesses -/

/-- What a host access that is answered leaves: one reply more, a register, an IBUF bit, a draw, or the reset state. -/
theorem serveAccess_next {a : HostAccess} {s t : State} (h : serveAccess a s = .next t) :
    (∃ r, t = s.reply r) ∨ t = s ∨ (∃ r v, a = .regWrite r v ∧ t = s.writeReg r v) ∨
    (∃ i b, a = .ibufWrite i b ∧ i < s.nMax ∧ s.busy = false ∧ t = s.putBit i b) ∨
    (∃ j, a = .obufRead j ∧ t = s.readObuf j) ∨ (a = .reset ∧ t = resetEvent s) := by
  cases a with
  | regRead r =>
    simp only [serveAccess] at h
    split at h
    · cases h; exact .inl ⟨_, rfl⟩
    · cases h
  | regWrite r v =>
    simp only [serveAccess] at h
    split at h
    · cases h; exact .inr (.inr (.inl ⟨r, v, rfl, rfl⟩))
    · cases h
  | ibufRead i =>
    simp only [serveAccess] at h
    split at h
    · cases h; exact .inl ⟨_, rfl⟩
    · cases h
  | ibufWrite i b =>
    simp only [serveAccess] at h
    split at h
    · next hi =>
      cases hb : s.busy with
      | true => simp [hb] at h; exact .inr (.inl h.symm)
      | false => simp [hb] at h; exact .inr (.inr (.inr (.inl ⟨i, b, rfl, hi, rfl, h.symm⟩)))
    · cases h
  | obufRead j =>
    simp only [serveAccess] at h
    split at h
    · cases h; exact .inr (.inr (.inr (.inr (.inl ⟨j, rfl, rfl⟩))))
    · cases h
  | obufWrite j c =>
    simp only [serveAccess] at h
    split at h
    · cases h; exact .inr (.inl rfl)
    · cases h
  | reset => cases h; exact .inr (.inr (.inr (.inr (.inr ⟨rfl, rfl⟩))))

/-- A host access never faults. -/
theorem serveAccess_ne_fault (a : HostAccess) (s : State) (f : Fault) : serveAccess a s ≠ .fault f := by
  cases a <;> simp only [serveAccess] <;> try split
  all_goals simp

/-- The step, by the event that comes next. -/
theorem step_of_event (s : State) :
    step s = match nextEvent s with
      | .run i t => exec i t
      | .serve a t => serveAccess a t
      | .quiet t => .next t := rfl

end Sys2Proof.Machine
end

