-- ==== Sys2Proof/Laws/Exec.lean ====
section
/-! SUPPORT. What `exec` can do, once for all commands: a START when ST is not BUSY, else the enabled step. -/

namespace Sys2Proof

theorem commandOf_code (k : BitVec 4) (len : Word) : (commandOf k len).code = k := by
  obtain ⟨n, rfl⟩ : ∃ n : Fin 16, k = BitVec.ofFin n := ⟨k.toFin, rfl⟩
  fin_cases n <;> rfl

/-- The operand of the command that a selector and a LEN value name; a reserved code has none. -/
theorem commandOf_len (k : BitVec 4) (len : Word) :
    (commandOf k len).len = if k.toNat < 9 then len else 0#32 := by
  obtain ⟨n, rfl⟩ : ∃ n : Fin 16, k = BitVec.ofFin n := ⟨k.toFin, rfl⟩
  fin_cases n <;> rfl

namespace Machine

theorem parityOf_eq_odd (x : Int) : parityOf x = .odd ↔ x % 2 = 1 := by
  unfold parityOf
  split <;> simp [*]

theorem parityOf_nat_eq_odd (x : Nat) : parityOf (x : Int) = .odd ↔ x % 2 = 1 := by
  rw [parityOf_eq_odd]; omega

/-- Outside BUSY every command's event is its START. -/
theorem exec_idle (i : Instr) {s : State} (h : s.busy = false) : exec i s = .next (startCommand i s) := by
  cases i <;> simp [exec, execNrz, execNrzl, execNrzi, execAmi, execPst, execMan, execDman, execB8zs, execHdb3,
    execReserved9, execReserved10, execReserved11, execReserved12, execReserved13, execReserved14, execReserved15,
    singlePass, doublePass, reservedCommand, h]

/-- A kind's P1 step (R85). -/
def codeBitOf : Instr → State → State
  | .nrz _ => nrzBit
  | .nrzl _ => nrzlBit
  | .nrzi _ => nrziBit
  | .ami _ => amiBit
  | .pst _ => pstBit
  | .man _ => manBit
  | .dman _ => dmanBit
  | .b8zs _ | .hdb3 _ => amiBit
  | .reserved9 | .reserved10 | .reserved11 | .reserved12 | .reserved13 | .reserved14 | .reserved15 => id

/-- A kind's end of P1 (R86). -/
def endPassOf : Instr → State → State
  | .man _ | .dman _ => endTwoLevel
  | .b8zs _ | .hdb3 _ => enterP2
  | .nrz _ | .nrzl _ | .nrzi _ | .ami _ | .pst _ => endOneLevel
  | .reserved9 | .reserved10 | .reserved11 | .reserved12 | .reserved13 | .reserved14 | .reserved15 => id

/-- A kind's replacement (R133, R152). -/
def replaceOf : Instr → Nat → State → Replaced
  | .b8zs _ => b8zsReplace
  | .hdb3 _ => hdb3Replace
  | .nrz _ | .nrzl _ | .nrzi _ | .ami _ | .pst _ | .man _ | .dman _ => fun _ s => .wrote s
  | .reserved9 | .reserved10 | .reserved11 | .reserved12 | .reserved13 | .reserved14 | .reserved15 =>
    fun _ s => .wrote s

/-- In P1 a kind that names an operation runs its pass P1. -/
theorem exec_p1 {i : Instr} {s : State} (hn : namesOperation i = true) (hb : s.busy = true)
    (hp : s.work.ph = .p1) : exec i s = passOne (codeBitOf i) (endPassOf i) s := by
  cases i <;> first
    | exact Bool.noConfusion hn
    | exact singlePass_busy hb hp
    | exact doublePass_p1 hb hp

/-- In P2 a kind with a substitution pass runs it. -/
theorem exec_p2 {i : Instr} {s : State} (hn : blockLength i.code ≠ 0) (hb : s.busy = true)
    (hp : s.work.ph = .p2) : exec i s = passTwo (blockLength i.code) (replaceOf i) s := by
  cases i <;> first
    | exact absurd rfl hn
    | exact doublePass_p2 hb hp

/-- Everything a command's event can be, when it gives a next state. -/
theorem exec_next {i : Instr} {s t : State} (h : exec i s = .next t) :
    (s.busy = false ∧ t = startCommand i s) ∨
    (s.busy = true ∧ namesOperation i = true ∧ s.work.ph = .p1 ∧ passOne (codeBitOf i) (endPassOf i) s = .next t) ∨
    (s.busy = true ∧ blockLength i.code ≠ 0 ∧ s.work.ph = .p2 ∧
      passTwo (blockLength i.code) (replaceOf i) s = .next t) := by
  cases hb : s.busy with
  | false => rw [exec_idle i hb] at h; cases h; exact .inl ⟨rfl, rfl⟩
  | true =>
    refine .inr ?_
    cases i <;> first
      | exact absurd (reservedCommand_next h).1 (by simp [hb])
      | (rcases singlePass_next h with ⟨h', _⟩ | ⟨_, hp, h'⟩
         · simp [hb] at h'
         · exact .inl ⟨rfl, rfl, hp, h'⟩)
      | (rcases doublePass_next h with ⟨h', _⟩ | ⟨_, hp, h'⟩ | ⟨_, hp, h'⟩
         · simp [hb] at h'
         · exact .inl ⟨rfl, rfl, hp, h'⟩
         · exact .inr ⟨rfl, by simp [Instr.code, blockLength], hp, h'⟩)

/-- What a B8ZS replacement does when it writes (R133, R136). -/
theorem b8zsReplace_wrote {s0 : Nat} {s t : State} (h : b8zsReplace s0 s = .wrote t) :
    s0 ≠ 0 ∧ (∀ k, k < 8 → s.obufRead (s0 + k) = 0b00#2) ∧
      ∃ p : LineSymbol, p ≠ .zero ∧ s.obufRead (s0 - 1) = p.code ∧ t = s.putSymbols s0 (b8zsPattern p) :=
  replaceBlock_wrote h

/-- What an HDB3 replacement does when it writes (R152, R156, R157). -/
theorem hdb3Replace_wrote {s0 : Nat} {s t : State} (h : hdb3Replace s0 s = .wrote t) :
    s0 ≠ 0 ∧ (∀ k, k < 4 → s.obufRead (s0 + k) = 0b00#2) ∧
      ∃ p : LineSymbol, p ≠ .zero ∧ s.obufRead (s0 - 1) = p.code ∧
        t = (s.putSymbols s0 (hdb3Pattern (classify s0 s.work.pvalid s.work.pstart.toNat) p)).setRecord s0
          (classify s0 s.work.pvalid s.work.pstart.toNat) := by
  unfold hdb3Replace at h
  exact replaceBlock_wrote h

@[simp] theorem b8zsPattern_length (p : LineSymbol) : (b8zsPattern p).length = 8 := rfl

@[simp] theorem hdb3Pattern_length (cls : Parity) (p : LineSymbol) : (hdb3Pattern cls p).length = 4 := by
  cases cls <;> rfl

/-- The four things a step can be: the running command's step, nothing, an accepted START, or a host access. -/
theorem step_cases (s : State) :
    (s.busy = true ∧ ∃ r, step s = exec s.running { s with inputs := r }) ∨
    (s.busy = false ∧ ∃ r, step s = .next { s with inputs := r }) ∨
    (s.busy = false ∧ ∃ r, startPending s r ∧ step s = exec s.command { s with inputs := r }) ∨
    (∃ a r, s.inputs = .access a :: r ∧ step s = serveAccess a { s with inputs := r }) := by
  cases hi : s.inputs with
  | nil =>
    cases hb : s.busy with
    | true => exact .inl ⟨rfl, s.inputs, show step s = exec s.running s by simp [step, nextEvent, hi, encoderEvent, hb]⟩
    | false => exact .inr (.inl ⟨rfl, s.inputs, show step s = .next s by simp [step, nextEvent, hi, encoderEvent, hb]⟩)
  | cons e r =>
    cases e with
    | encoderTurn =>
      cases hb : s.busy with
      | true =>
        have hb' : State.busy { s with inputs := r } = true := hb
        exact .inl ⟨rfl, r, by simp [step, nextEvent, hi, encoderEvent, hb', State.running]⟩
      | false =>
        have hb' : State.busy { s with inputs := r } = false := hb
        exact .inr (.inl ⟨rfl, r, by simp [step, nextEvent, hi, encoderEvent, hb']⟩)
    | access a =>
      by_cases hc : isStart a = true ∧ s.busy = false
      · have hs : startPending s r := by
          obtain ⟨ha, _⟩ := hc
          cases a with
          | regWrite n v =>
            simp only [isStart, Bool.and_eq_true, beq_iff_eq] at ha
            obtain ⟨rfl, hv⟩ := ha
            exact ⟨v, hv, hi⟩
          | _ => cases ha
        exact .inr (.inr (.inl ⟨hc.2, r, hs, by simp [step, nextEvent, hi, hc]⟩))
      · refine .inr (.inr (.inr ⟨a, r, rfl, ?_⟩))
        have : (isStart a && !s.busy) = false := by
          cases h1 : isStart a <;> cases h2 : s.busy <;> simp_all
        simp [step, nextEvent, hi, this]

/-- The host's START, when it is accepted, is the START of the command in KIND and LEN. -/
theorem step_start {s : State} {rest : List Input} (hs : startPending s rest) (hb : s.busy = false) :
    step s = .next (startCommand s.command { s with inputs := rest }) := by
  obtain ⟨v, hv, hi⟩ := hs
  have hb' : State.busy { s with inputs := rest } = false := hb
  simp [step, nextEvent, hi, isStart, hv, hb, exec_idle s.command hb']

end Machine

end Sys2Proof
end

