-- ==== Sys2Proof/Laws/PerInstr.lean ====
section
/-! SUPPORT. One lemma per command: its words are a KIND word whose bits 31:4 are 0 and a LEN word (30_encoding.md R60,
R65). -/

namespace Sys2Proof.Laws.EncodesInCmdFormat

/-- The encoding of `i` is the pair (KIND, LEN), with nothing above KIND[3:0]. -/
def Statement (i : Instr) : Prop :=
  ∃ kind len, encode i = [kind, len] ∧ kind &&& 0xFFFFFFF0#32 = 0 ∧ kindField kind = i.code

theorem above_clear (k : BitVec 4) : k.setWidth 32 &&& 0xFFFFFFF0#32 = 0 := by revert k; decide

theorem nrz (len : Word) : Statement (.nrz len) := ⟨_, _, rfl, above_clear _, kindField_setWidth _⟩

theorem nrzl (len : Word) : Statement (.nrzl len) := ⟨_, _, rfl, above_clear _, kindField_setWidth _⟩

theorem nrzi (len : Word) : Statement (.nrzi len) := ⟨_, _, rfl, above_clear _, kindField_setWidth _⟩

theorem ami (len : Word) : Statement (.ami len) := ⟨_, _, rfl, above_clear _, kindField_setWidth _⟩

theorem pst (len : Word) : Statement (.pst len) := ⟨_, _, rfl, above_clear _, kindField_setWidth _⟩

theorem man (len : Word) : Statement (.man len) := ⟨_, _, rfl, above_clear _, kindField_setWidth _⟩

theorem dman (len : Word) : Statement (.dman len) := ⟨_, _, rfl, above_clear _, kindField_setWidth _⟩

theorem b8zs (len : Word) : Statement (.b8zs len) := ⟨_, _, rfl, above_clear _, kindField_setWidth _⟩

theorem hdb3 (len : Word) : Statement (.hdb3 len) := ⟨_, _, rfl, above_clear _, kindField_setWidth _⟩

theorem reserved9 : Statement .reserved9 := ⟨_, _, rfl, above_clear _, kindField_setWidth _⟩

theorem reserved10 : Statement .reserved10 := ⟨_, _, rfl, above_clear _, kindField_setWidth _⟩

theorem reserved11 : Statement .reserved11 := ⟨_, _, rfl, above_clear _, kindField_setWidth _⟩

theorem reserved12 : Statement .reserved12 := ⟨_, _, rfl, above_clear _, kindField_setWidth _⟩

theorem reserved13 : Statement .reserved13 := ⟨_, _, rfl, above_clear _, kindField_setWidth _⟩

theorem reserved14 : Statement .reserved14 := ⟨_, _, rfl, above_clear _, kindField_setWidth _⟩

theorem reserved15 : Statement .reserved15 := ⟨_, _, rfl, above_clear _, kindField_setWidth _⟩

end Sys2Proof.Laws.EncodesInCmdFormat
end

