-- ==== Sys2Proof/Tests/Slice0.lean ====
section
/-! SUPPORT. The model's own tests: the WellFormed smoke, decoding of written-out words, one step of every command, the
spec's worked vectors, and a witness for the hypotheses of every statement. Expected values come from spec/. -/

namespace Sys2Proof.Tests

open Sys2Proof Sys2Proof.Machine

/-! ## Small states -/

/-- A frame as the host leaves it in IBUF. -/
def ibufOf (bits : List Bit) : Buf 1 := bits.zipIdx.map (fun p => (p.2, p.1))

/-- Symbols as the encoder leaves them in OBUF. -/
def obufOf (q : List LineSymbol) : Buf 2 := q.zipIdx.map (fun p => (p.2, p.1.code))

/-- An IDLE block with N_MAX = 16, a frame loaded, and the working registers of some earlier operation. -/
def idleWith (k : BitVec 4) (bits : List Bit) (inputs : List Input) : State :=
  { State.afterReset 16 0 with
    kind := k
    len := BitVec.ofNat 32 bits.length
    ibuf := ibufOf bits
    inputs := inputs
    work := { Work.initial (.hdb3 7#32) with ph := .p2, zcnt := 2#3, pol := 1#1, lvl := 1#1, pvalid := true } }

/-- A BUSY block: command `i` on `bits`, in pass `ph` at `idx`, with the symbols `q` in OBUF. -/
def busyAt (i : Instr) (ph : Phase) (idx : Nat) (z : BitVec 3) (bits : List Bit) (q : List LineSymbol) : State :=
  { idleWith i.code bits [] with
    status := ⟨.busy, .none, .none⟩
    obuf := obufOf q
    work := { Work.initial i with ph := ph, idx := BitVec.ofNat 32 idx, zcnt := z } }

/-- What `f` sees in the next state, if there is one. -/
def after {α : Type} (o : Host.Outcome State Fault Refusal) (f : State → α) : Option α :=
  match o with
  | .next t => some (f t)
  | .fault _ => none
  | .refused _ => none

/-- What `f` sees after one step of command `i` on a BUSY block (see `busyAt`). -/
def ran {α : Type} (i : Instr) (ph : Phase) (idx : Nat) (z : BitVec 3) (bits : List Bit) (q : List LineSymbol)
    (f : State → α) : Option α :=
  after (exec i (busyAt i ph idx z bits q)) f

/-- A START on the host's side. -/
def startNow : Input := .access wrStart

/-- The symbol codes 0 .. k-1 of OBUF. -/
def codes (k : Nat) (s : State) : List SymCode := codesAt s 0 k

/-! ## WellFormed: an ill-formed command for each check, and well-formed ones -/

theorem test_namesOperation_refuses : namesOperation .reserved12 = false ∧ wellFormed 16 .reserved9 = false := by decide
theorem test_frameFits_refuses : frameFits 16 (.nrz 17#32) = false ∧ wellFormed 16 (.nrz 17#32) = false := by decide
theorem test_hasNeededElement_refuses : hasNeededElement (.nrzi 0#32) = false ∧
    wellFormed 16 (.hdb3 0#32) = false := by decide
theorem test_wellFormed_accepts :
    wellFormed 16 (.ami 0#32) = true ∧ wellFormed 16 (.dman 1#32) = true ∧
      wellFormed 16 (.b8zs 16#32) = true := by decide

/-! ## Decoding: every code of 30_encoding.md R61, R62 written out, LEN beside it -/

theorem test_decode_nrz : decode [0b0000#32, 5#32] = .ok (.nrz 5#32) := rfl
theorem test_decode_nrzl : decode [0b0001#32, 5#32] = .ok (.nrzl 5#32) := rfl
theorem test_decode_nrzi : decode [0b0010#32, 5#32] = .ok (.nrzi 5#32) := rfl
theorem test_decode_ami : decode [0b0011#32, 5#32] = .ok (.ami 5#32) := rfl
theorem test_decode_pst : decode [0b0100#32, 5#32] = .ok (.pst 5#32) := rfl
theorem test_decode_man : decode [0b0101#32, 5#32] = .ok (.man 5#32) := rfl
theorem test_decode_dman : decode [0b0110#32, 5#32] = .ok (.dman 5#32) := rfl
theorem test_decode_b8zs : decode [0b0111#32, 5#32] = .ok (.b8zs 5#32) := rfl
theorem test_decode_hdb3 : decode [0b1000#32, 5#32] = .ok (.hdb3 5#32) := rfl
theorem test_decode_reserved :
    [0b1001#32, 0b1010#32, 0b1011#32, 0b1100#32, 0b1101#32, 0b1110#32, 0b1111#32].map (fun w => (decode [w,
      5#32]).toOption)
      = [some .reserved9, some .reserved10, some .reserved11, some .reserved12, some .reserved13, some .reserved14,
         some .reserved15] := rfl
/-- Vector SC7 (95_test_vectors.md 2.6): bits 31:4 are ignored. -/
theorem test_decode_ignores_high_bits : decode [0x17#32, 5#32] = .ok (.b8zs 5#32) := rfl
theorem test_decode_rejects :
    decode [] = .error .missingKind ∧ decode [3#32] = .error .missingLen ∧
    decode [3#32, 1#32, 0#32] = .error .trailingWords := ⟨rfl, rfl, rfl⟩
/-- A table word's bits 63:32 are the LEN word. -/
theorem test_decodeTableWord_len : decodeTableWord 64 (3 * 2 ^ 32 + 5) = some (.man 3#32) := by decide

/-! ## One step of every command -/

/-- The step from reset runs a placed command. -/
theorem test_placed_word_runs :
    after (step (State.reset.withFetchWord 4 0b0011)) (fun t => (t.status, t.work.opk, t.inputs)) =
      some (⟨.busy, .none, .none⟩, 3#4, []) := by decide
theorem test_placed_reserved_faults :
    after (step (State.reset.withFetchWord 4 0b1100)) (fun t => (t.status.word, t.olen)) = some (0x0F#32, 0#32) :=
      by decide

/-- Vector NZ3. -/
theorem test_nrz_step : ran (.nrz 1#32) .p1 0 0#3 [1#1] [] (fun t => (t.obufRead 0, t.work.idx))
    = some (0b01#2, 1#32) := by decide
/-- Vector NZ8. -/
theorem test_nrzl_step : ran (.nrzl 1#32) .p1 0 0#3 [1#1] [] (fun t => t.obufRead 0)
    = some 0b11#2 := by decide
/-- Vector NZ16: the second 1 inverts the level. -/
theorem test_nrzi_step : after (exec (.nrzi 2#32)
      { busyAt (.nrzi 2#32) .p1 1 0#3 [1#1, 1#1] [.plus] with
        work := { Work.initial (.nrzi 2#32) with idx := 1#32, lvl := 1#1 } })
    (fun t => (t.obufRead 1, t.work.lvl)) = some (0b00#2, 0#1) := by decide
/-- Vector BP3: the first pulse is positive, and POL flips. -/
theorem test_ami_step : ran (.ami 1#32) .p1 0 0#3 [1#1] [] (fun t => (t.obufRead 0, t.work.pol))
    = some (0b01#2, 1#1) := by decide
/-- Vector BP9. -/
theorem test_pst_step : ran (.pst 1#32) .p1 0 0#3 [0#1] [] (fun t => (t.obufRead 0, t.work.pol))
    = some (0b01#2, 1#1) := by decide
/-- Vector MC3. -/
theorem test_man_step : ran (.man 1#32) .p1 0 0#3 [1#1] [] (codes 2)
    = some [0b11#2, 0b01#2] := by decide
/-- Vector MC8: the seed level is low; a 1 inverts it. -/
theorem test_dman_step : ran (.dman 1#32) .p1 0 0#3 [1#1] [] (fun t => (codes 2 t, t.work.lvl))
    = some ([0b01#2, 0b11#2], 0#1) := by decide
/-- Vector ZS6: the block after -1 takes the BOTTOM pattern. -/
theorem test_b8zs_block : ran (.b8zs 10#32) .p2 9 7#3 (1#1 :: 1#1 :: List.replicate 8 0#1)
      (.plus :: .minus :: List.replicate 8 .zero) (codes 10)
    = some [0b01#2, 0b11#2, 0b00#2, 0b00#2, 0b00#2, 0b11#2, 0b01#2, 0b00#2, 0b01#2, 0b11#2] := by decide
/-- Program 4 (95_test_vectors.md): the run at s = 1 takes 000V, and the record is (1, ODD). -/
theorem test_hdb3_odd : ran (.hdb3 9#32) .p2 4 3#3 (1#1 :: List.replicate 8 0#1)
      (.plus :: List.replicate 8 .zero) (fun t => (codes 5 t, t.work.pvalid, t.work.pstart, t.work.pclass))
    = some ([0b01#2, 0b00#2, 0b00#2, 0b00#2, 0b01#2], true, 1#32, .odd) := by decide

/-- Vectors SC1, SC2 for the seven reserved codes: InvalidKind, whatever LEN is. -/
theorem test_reserved_start :
    [Instr.reserved9, .reserved10, .reserved11, .reserved12, .reserved13, .reserved14, .reserved15].map
      (fun i => after (exec i (idleWith 9#4 [1#1] [])) (fun t => t.status.word)) =
    List.replicate 7 (some 0x0F#32) := by decide
/-- Vector SC3. -/
theorem test_start_too_long :
    after (exec (.nrzi 17#32) (idleWith 2#4 [] [])) (fun t => t.status.word) = some 0x47#32 := by decide
/-- Vector MC6. -/
theorem test_start_empty :
    after (exec (.dman 0#32) (idleWith 6#4 [] [])) (fun t => t.status.word) = some 0x27#32 := by decide

/-- The STATUS words of 30_encoding.md R65, in its order, those that no rule reaches last. -/
theorem test_status_words :
    [Status.mk .idle .none .none, ⟨.busy, .none, .none⟩, ⟨.done, .none, .none⟩, ⟨.fault, .invalidInput, .empty⟩,
      ⟨.fault, .invalidInput, .noPreceding⟩, ⟨.fault, .invalidInput, .lenRange⟩, ⟨.fault, .invalidKind, .none⟩,
      ⟨.fault, .invalidInput, .badBit⟩, ⟨.fault, .internalInvariantViolation, .runShape⟩,
      ⟨.fault, .internalInvariantViolation, .precedingZero⟩].map Status.word =
    [0x00#32, 0x01#32, 0x02#32, 0x27#32, 0x37#32, 0x47#32, 0x0F#32, 0x17#32, 0x5B#32, 0x6B#32] := by decide

/-! ## The worked vectors of 95_test_vectors.md, on encode(kind, bits) -/

/-- NZ4. -/
theorem test_vector_nrz : encodeFrame 16 0#4 [0#1, 1#1, 0#1, 0#1, 1#1, 1#1, 0#1]
    = .ok [.zero, .plus, .zero, .zero, .plus, .plus, .zero] := rfl
/-- NZ9. -/
theorem test_vector_nrzl : encodeFrame 16 1#4 [0#1, 1#1, 0#1, 0#1, 1#1, 1#1, 0#1]
    = .ok [.zero, .minus, .zero, .zero, .minus, .minus, .zero] := rfl
/-- NZ15: the first bit seeds the level. -/
theorem test_vector_nrzi : encodeFrame 16 2#4 [1#1, 0#1, 1#1, 1#1, 0#1, 0#1, 0#1, 1#1, 0#1, 1#1]
    = .ok [.plus, .plus, .zero, .plus, .plus, .plus, .plus, .zero, .zero, .plus] := rfl
/-- BP4. -/
theorem test_vector_ami : encodeFrame 16 3#4 [0#1, 1#1, 0#1, 0#1, 1#1, 1#1, 0#1]
    = .ok [.zero, .plus, .zero, .zero, .minus, .plus, .zero] := rfl
/-- BP11. -/
theorem test_vector_pst : encodeFrame 16 4#4 [0#1, 1#1, 0#1, 0#1, 1#1, 1#1, 0#1]
    = .ok [.plus, .zero, .minus, .plus, .zero, .zero, .minus] := rfl
/-- MC4. -/
theorem test_vector_man : encodeFrame 16 5#4 [0#1, 1#1, 0#1, 0#1]
    = .ok [.plus, .minus, .minus, .plus, .plus, .minus, .plus, .minus] := rfl
/-- MC12. -/
theorem test_vector_dman : encodeFrame 16 6#4 [0#1, 0#1, 0#1, 0#1]
    = .ok [.minus, .plus, .plus, .minus, .minus, .plus, .plus, .minus] := rfl
/-- ZS4. -/
theorem test_vector_b8zs : encodeFrame 16 7#4 [1#1, 0#1, 0#1, 0#1, 0#1, 0#1, 0#1, 0#1, 0#1, 1#1]
    = .ok [.plus, .zero, .zero, .zero, .plus, .minus, .zero, .minus, .plus, .minus] := rfl
/-- HD2, the even-gap configuration. -/
theorem test_vector_hdb3 : encodeFrame 16 8#4 [1#1, 0#1, 0#1, 0#1, 0#1, 1#1, 1#1, 0#1, 0#1, 0#1, 0#1, 1#1]
    = .ok [.plus, .zero, .zero, .zero, .plus, .minus, .plus, .minus, .zero, .zero, .minus, .minus] := rfl

/-! ## Sound states -/

theorem symbolsBelow_of_all {s : State} {k : Nat}
    (h : ∀ j, j < k → bufLookup s.obuf j ≠ none ∧ bufLookup s.obuf j ≠ some 0b10#2) : symbolsBelow s k := by
  have all : ∀ c : SymCode, c ≠ 0b10#2 → ∃ v : LineSymbol, c = v.code := by
    intro c hc
    rcases (by revert c; decide : c = 0b00#2 ∨ c = 0b01#2 ∨ c = 0b11#2) with rfl | rfl | rfl
    · exact ⟨.zero, rfl⟩
    · exact ⟨.plus, rfl⟩
    · exact ⟨.minus, rfl⟩
  intro j hj
  obtain ⟨h1, h2⟩ := h j hj
  obtain ⟨c, hc⟩ := Option.ne_none_iff_exists'.1 h1
  obtain ⟨v, rfl⟩ := all c (fun e => h2 (by rw [hc, e]))
  exact ⟨v, hc⟩

/-- A block about to take a START of `k` on `bits`. -/
def ready (k : BitVec 4) (bits : List Bit) : State := idleWith k bits [startNow]

/-- MAN on one bit, in P1 and at its end. -/
def manRunning (idx : Nat) (q : List LineSymbol) : State := busyAt (.man 1#32) .p1 idx 0#3 [1#1] q

/-- B8ZS on 1 and eight zeros, where the block completes. -/
def b8zsAtBlock : State :=
  busyAt (.b8zs 9#32) .p2 8 7#3 (1#1 :: List.replicate 8 0#1) (.plus :: List.replicate 8 .zero)

/-- HDB3 on 1 and eight zeros, where its second run completes (Program 4 of 95_test_vectors.md). -/
def hdb3AtSecondRun : State :=
  { busyAt (.hdb3 9#32) .p2 8 3#3 (1#1 :: List.replicate 8 0#1)
      [.plus, .zero, .zero, .zero, .plus, .zero, .zero, .zero, .zero] with
    work := { Work.initial (.hdb3 9#32) with
      ph := .p2, idx := 8#32, zcnt := 3#3, pvalid := true, pstart := 1#32, pclass := .odd } }

theorem sound_ready : BlockInv (ready 5#4 [1#1]) where
  capLow := by decide
  capHigh := by decide
  ibufForm := by decide
  obufForm := by decide
  ibufRange := by decide
  obufRange := by decide
  obufCodes := by decide
  status := by decide
  olenOnlyDone := by decide
  olenRange := by decide
  resultWritten := fun h => absurd h (by decide)
  running := fun h => absurd h (by decide)

theorem sound_manStep : BlockInv (manRunning 0 []) where
  capLow := by decide
  capHigh := by decide
  ibufForm := by decide
  obufForm := by decide
  ibufRange := by decide
  obufRange := by decide
  obufCodes := by decide
  status := by decide
  olenOnlyDone := by decide
  olenRange := by decide
  resultWritten := fun h => absurd h (by decide)
  running := fun _ =>
    { names := by decide, fits := by decide, needed := by decide, inRange := by decide
      p2Kind := fun h => absurd h (by decide), p1Record := by decide
      p1Written := fun _ => symbolsBelow_of_all (by decide), p2Written := fun h => absurd h (by decide)
      p2Count := fun h => absurd h (by decide), p2Bound := fun h => absurd h (by decide)
      p2Zeros := fun h => absurd h (by decide), p2Pulse := fun h => absurd h (by decide)
      p2Record := fun h => absurd h (by decide) }

theorem sound_manEnd : BlockInv (manRunning 1 [.minus, .plus]) where
  capLow := by decide
  capHigh := by decide
  ibufForm := by decide
  obufForm := by decide
  ibufRange := by decide
  obufRange := by decide
  obufCodes := by decide
  status := by decide
  olenOnlyDone := by decide
  olenRange := by decide
  resultWritten := fun h => absurd h (by decide)
  running := fun _ =>
    { names := by decide, fits := by decide, needed := by decide, inRange := by decide
      p2Kind := fun h => absurd h (by decide), p1Record := by decide
      p1Written := fun _ => symbolsBelow_of_all (by decide), p2Written := fun h => absurd h (by decide)
      p2Count := fun h => absurd h (by decide), p2Bound := fun h => absurd h (by decide)
      p2Zeros := fun h => absurd h (by decide), p2Pulse := fun h => absurd h (by decide)
      p2Record := fun h => absurd h (by decide) }

theorem sound_b8zsAtBlock : BlockInv b8zsAtBlock where
  capLow := by decide
  capHigh := by decide
  ibufForm := by decide
  obufForm := by decide
  ibufRange := by decide
  obufRange := by decide
  obufCodes := by decide
  status := by decide
  olenOnlyDone := by decide
  olenRange := by decide
  resultWritten := fun h => absurd h (by decide)
  running := fun _ =>
    { names := by decide, fits := by decide, needed := by decide, inRange := by decide, p2Kind := by decide
      p1Record := by decide, p1Written := fun h => absurd h (by decide)
      p2Written := fun _ => symbolsBelow_of_all (by decide), p2Count := by decide, p2Bound := by decide
      p2Zeros := by decide, p2Pulse := by decide, p2Record := by decide }

theorem sound_hdb3AtSecondRun : BlockInv hdb3AtSecondRun where
  capLow := by decide
  capHigh := by decide
  ibufForm := by decide
  obufForm := by decide
  ibufRange := by decide
  obufRange := by decide
  obufCodes := by decide
  status := by decide
  olenOnlyDone := by decide
  olenRange := by decide
  resultWritten := fun h => absurd h (by decide)
  running := fun _ =>
    { names := by decide, fits := by decide, needed := by decide, inRange := by decide, p2Kind := by decide
      p1Record := by decide, p1Written := fun h => absurd h (by decide)
      p2Written := fun _ => symbolsBelow_of_all (by decide), p2Count := by decide, p2Bound := by decide
      p2Zeros := by decide, p2Pulse := by decide, p2Record := by decide }

/-! ## A witness for the hypotheses of every statement that has some, clause by clause -/

theorem startPending_ready (k : BitVec 4) (bits : List Bit) : startPending (ready k bits) [] := ⟨1#32, by decide, rfl⟩

theorem witness_DecodeAndEncodeAgree : ([] : List Word).length ≠ 2 ∧ [1#32].length ≠ 2 ∧
    [1#32, 2#32, 3#32].length ≠ 2 := by
  decide

theorem witness_StepRunsDecodedCommand :
    (startPending (ready 3#4 [1#1]) [] ∧ (ready 3#4 [1#1]).busy = false ∧
      decode [(ready 3#4 [1#1]).kind.setWidth 32, (ready 3#4 [1#1]).len] = .ok (.ami 1#32)) ∧
    (∃ s : State, s.inputs = [.encoderTurn] ∧ s.busy = true ∧
      decode [s.work.opk.setWidth 32, s.work.n] = .ok (.man 1#32)) ∧
    ((manRunning 0 []).inputs = [] ∧ (manRunning 0 []).busy = true ∧
      decode [(manRunning 0 []).work.opk.setWidth 32, (manRunning 0 []).work.n] = .ok (.man 1#32)) ∧
    ((idleWith 3#4 [1#1] [.encoderTurn]).inputs = [.encoderTurn] ∧ (idleWith 3#4 [1#1] [.encoderTurn]).busy = false) ∧
    ((idleWith 3#4 [1#1] []).inputs = [] ∧ (idleWith 3#4 [1#1] []).busy = false) ∧
    (∃ s : State, s.inputs = [.access (.regRead 3)] ∧ ¬ (s.busy = false ∧ startPending s [])) ∧
    (∃ s : State, s.inputs = [startNow] ∧ ¬ (s.busy = false ∧ startPending s [])) :=
  ⟨⟨startPending_ready _ _, by decide, rfl⟩, ⟨{ manRunning 0 [] with inputs := [.encoderTurn] }, rfl, by decide, rfl⟩,
    ⟨rfl, by decide, rfl⟩, ⟨rfl, by decide⟩, ⟨rfl, by decide⟩,
    ⟨idleWith 3#4 [1#1] [.access (.regRead 3)], rfl, fun h => by obtain ⟨_, _, _, h⟩ := h; cases h⟩,
    ⟨{ manRunning 0 [] with inputs := [startNow] }, rfl, fun h => absurd h.1 (by decide)⟩⟩

theorem witness_PlacedWordRunsNext : decodeTableWord 4 3 = some (.ami 0#32) := by decide

theorem witness_EveryStepKeepsInv :
    (BlockInv (ready 5#4 [1#1]) ∧ ∃ t, step (ready 5#4 [1#1]) = .next t) ∧
    (BlockInv (manRunning 0 []) ∧ ∃ t, step (manRunning 0 []) = .next t) ∧
    (BlockInv b8zsAtBlock ∧ ∃ t, step b8zsAtBlock = .next t) ∧
    (BlockInv hdb3AtSecondRun ∧ ∃ t, step hdb3AtSecondRun = .next t) :=
  ⟨⟨sound_ready, _, rfl⟩, ⟨sound_manStep, _, rfl⟩, ⟨sound_b8zsAtBlock, _, rfl⟩, ⟨sound_hdb3AtSecondRun, _, rfl⟩⟩

/-- A sound block whose host reads IBUF just past its end. -/
theorem witness_SoundStatesNeverFault :
    ∃ s : State, BlockInv s ∧ step s = .refused (.hostIbufIndex 16) :=
  ⟨{ ready 5#4 [1#1] with inputs := [.access (.ibufRead 16)] },
    ⟨sound_ready.1, sound_ready.2, sound_ready.3, sound_ready.4, sound_ready.5, sound_ready.6, sound_ready.7,
      sound_ready.8, sound_ready.9, sound_ready.10, fun h => absurd h (by decide), fun h => absurd h (by decide)⟩, rfl⟩

theorem witness_EncoderAlwaysProgresses :
    (BlockInv b8zsAtBlock ∧ b8zsAtBlock.busy = true) ∧ (BlockInv (manRunning 1 [.minus, .plus]) ∧
      (manRunning 1 [.minus, .plus]).busy = true) ∧
    ((ready 5#4 []).busy = false ∧ wellFormed (ready 5#4 []).nMax (.man 0#32) = true ∧
      wellFormed (ready 5#4 []).nMax (.b8zs 16#32) = true) :=
  ⟨⟨sound_b8zsAtBlock, by decide⟩, ⟨sound_manEnd, by decide⟩, by decide, by decide, by decide⟩

theorem witness_OperationComputesEncode :
    (ready 8#4 [1#1]).busy = false ∧ startPending (ready 8#4 [1#1]) [] ∧ (ready 8#4 [1#1]).nMax ≤ 2147483647 ∧
    (∀ e ∈ [Input.access (.regRead 4), .access (.regWrite 1 9#32), .access (.ibufWrite 15 1#1),
      .access (.obufRead 31), .encoderTurn],
      quietInput 16 e = true) :=
  ⟨by decide, startPending_ready _ _, by decide, by decide⟩

/-- Where `k` steps lead, if they do. -/
def afterSteps (k : Nat) (s : State) : State :=
  match Host.Core.run Sys2Proof.core k s with
  | .next t => t
  | .fault _ => s
  | .refused _ => s

/-- The same START as `ready`, with other working registers and a host that polls STATUS meanwhile. -/
def readyLater (k : BitVec 4) (bits : List Bit) : State :=
  { ready k bits with inputs := [startNow, .access (.regRead 3)], work := Work.initial (.nrz 0#32) }

theorem witness_OperationsAreRepeatable :
    (ready 0#4 [1#1]).busy = false ∧ (readyLater 0#4 [1#1]).busy = false ∧
    startPending (ready 0#4 [1#1]) [] ∧ startPending (readyLater 0#4 [1#1]) [.access (.regRead 3)] ∧
    quietInput 16 (.access (.regRead 3)) = true ∧
    (ready 0#4 [1#1]).nMax = (readyLater 0#4 [1#1]).nMax ∧ (ready 0#4 [1#1]).nMax ≤ 2147483647 ∧
    (ready 0#4 [1#1]).kind = (readyLater 0#4 [1#1]).kind ∧ (ready 0#4 [1#1]).len = (readyLater 0#4 [1#1]).len ∧
    (ready 0#4 [1#1]).frame 1 = (readyLater 0#4 [1#1]).frame 1 ∧
    endsAt (ready 0#4 [1#1]) 3 (afterSteps 3 (ready 0#4 [1#1])) ∧
    endsAt (readyLater 0#4 [1#1]) 4 (afterSteps 4 (readyLater 0#4 [1#1])) := by
  refine ⟨by decide, by decide, startPending_ready _ _, ⟨1#32, by decide, rfl⟩, by decide, rfl, by decide, rfl, rfl,
    rfl,
    ⟨by decide, rfl, by decide, ?_⟩, ⟨by decide, rfl, by decide, ?_⟩⟩
  · intro j h0 h
    match j with
    | 1 => exact ⟨_, rfl, by decide⟩
    | 2 => exact ⟨_, rfl, by decide⟩
  · intro j h0 h
    match j with
    | 1 => exact ⟨_, rfl, by decide⟩
    | 2 => exact ⟨_, rfl, by decide⟩
    | 3 => exact ⟨_, rfl, by decide⟩

/-- Both ends of the range of LEN, 0 and N_MAX = 16. -/
theorem witness_StartInitialisesOperation :
    (ready 3#4 []).busy = false ∧ (0#32).toNat ≤ (ready 3#4 []).nMax ∧ (16#32).toNat ≤ (ready 3#4 []).nMax ∧
      16#32 ≠ 0#32 := by decide

theorem witness_StartRejectsReservedKind :
    (ready 9#4 [1#1]).busy = false ∧ Instr.reserved9 ∈ [Instr.reserved9, .reserved10, .reserved11, .reserved12,
      .reserved13, .reserved14, .reserved15] ∧
    startPending (ready 9#4 [1#1]) [] ∧ 9 ≤ (ready 9#4 [1#1]).kind.toNat ∧
    startPending (ready 8#4 [1#1]) [] ∧ (ready 8#4 [1#1]).kind.toNat < 9 :=
  ⟨by decide, by decide, startPending_ready _ _, by decide, startPending_ready _ _, by decide⟩

/-- LEN = N_MAX + 1 and LEN = N_MAX. -/
theorem witness_StartRejectsLongFrame :
    (startPending (ready 8#4 (List.replicate 17 1#1)) [] ∧ (ready 8#4 (List.replicate 17 1#1)).busy = false ∧
      (ready 8#4 (List.replicate 17 1#1)).kind.toNat < 9 ∧
      (ready 8#4 (List.replicate 17 1#1)).nMax < (ready 8#4 (List.replicate 17 1#1)).len.toNat) ∧
    (startPending (ready 0#4 (List.replicate 16 1#1)) [] ∧ (ready 0#4 (List.replicate 16 1#1)).busy = false ∧
      (ready 0#4 (List.replicate 16 1#1)).kind.toNat < 9 ∧
      (ready 0#4 (List.replicate 16 1#1)).len.toNat ≤ (ready 0#4 (List.replicate 16 1#1)).nMax) :=
  ⟨⟨startPending_ready _ _, by decide, by decide, by decide⟩, ⟨startPending_ready _ _, by decide, by decide, by decide⟩⟩

theorem witness_StartOnEmptyFrame :
    (ready 2#4 []).busy = false ∧ Instr.hdb3 0#32 ∈ [Instr.nrzi 0#32, .dman 0#32, .b8zs 0#32, .hdb3 0#32] ∧
    Instr.man 0#32 ∈ [Instr.nrz 0#32, .nrzl 0#32, .ami 0#32, .pst 0#32, .man 0#32] := by decide

theorem witness_BusyBlockIgnoresHostWrites :
    (∃ s : State, s.busy = true ∧ startPending s []) ∧
    (b8zsAtBlock.busy = true ∧ HostAccess.regWrite 1 5#32 ≠ .reset ∧
      ∃ t, serveAccess (.regWrite 1 5#32) b8zsAtBlock = .next t) :=
  ⟨⟨{ manRunning 0 [] with inputs := [startNow] }, by decide, 1#32, by decide, rfl⟩, by decide, by decide, _, rfl⟩

/-- A P1 step of command `i` at the last bit of a two-bit frame, with POL and LVL given. -/
def lastBit (i : Instr) (b pol lvl : Bit) : State :=
  { busyAt i .p1 1 0#3 [1#1, b] [.plus] with work := { Work.initial i with idx := 1#32, pol := pol, lvl := lvl } }

theorem witness_NrzStepEmitsBit : atP1Step (lastBit (.nrz 2#32) 0#1 0#1 0#1) ∧
    atP1Step (lastBit (.nrz 2#32) 1#1 0#1 0#1) := by
  unfold atP1Step; decide

theorem witness_NrzlStepEmitsBit : atP1Step (lastBit (.nrzl 2#32) 0#1 0#1 0#1) ∧
    atP1Step (lastBit (.nrzl 2#32) 1#1 0#1 0#1) := by
  unfold atP1Step; decide

theorem witness_NrziStepTracksLevel :
    (atP1Step (busyAt (.nrzi 1#32) .p1 0 0#3 [1#1] []) ∧ (busyAt (.nrzi 1#32) .p1 0 0#3 [1#1] []).pos = 0) ∧
    (atP1Step (lastBit (.nrzi 2#32) 0#1 0#1 1#1) ∧ (lastBit (.nrzi 2#32) 0#1 0#1 1#1).pos ≠ 0 ∧
      (lastBit (.nrzi 2#32) 0#1 0#1 1#1).ibufRead 1 = 0#1) ∧
    (atP1Step (lastBit (.nrzi 2#32) 1#1 0#1 1#1) ∧ (lastBit (.nrzi 2#32) 1#1 0#1 1#1).pos ≠ 0 ∧
      (lastBit (.nrzi 2#32) 1#1 0#1 1#1).ibufRead 1 = 1#1) := by
  unfold atP1Step; decide

theorem witness_AmiStepAlternatesOnOnes :
    Instr.b8zs 2#32 ∈ [Instr.ami 2#32, .b8zs 2#32, .hdb3 2#32] ∧
    (atP1Step (lastBit (.b8zs 2#32) 0#1 1#1 0#1) ∧ (lastBit (.b8zs 2#32) 0#1 1#1 0#1).ibufRead 1 = 0#1) ∧
    (atP1Step (lastBit (.b8zs 2#32) 1#1 0#1 0#1) ∧ (lastBit (.b8zs 2#32) 1#1 0#1 0#1).ibufRead 1 = 1#1 ∧
      (lastBit (.b8zs 2#32) 1#1 0#1 0#1).work.pol = 0#1) ∧
    (atP1Step (lastBit (.b8zs 2#32) 1#1 1#1 0#1) ∧ (lastBit (.b8zs 2#32) 1#1 1#1 0#1).ibufRead 1 = 1#1 ∧
      (lastBit (.b8zs 2#32) 1#1 1#1 0#1).work.pol = 1#1) := by
  unfold atP1Step; decide

theorem witness_PstStepAlternatesOnZeros :
    (atP1Step (lastBit (.pst 2#32) 1#1 1#1 0#1) ∧ (lastBit (.pst 2#32) 1#1 1#1 0#1).ibufRead 1 = 1#1) ∧
    (atP1Step (lastBit (.pst 2#32) 0#1 0#1 0#1) ∧ (lastBit (.pst 2#32) 0#1 0#1 0#1).ibufRead 1 = 0#1 ∧
      (lastBit (.pst 2#32) 0#1 0#1 0#1).work.pol = 0#1) ∧
    (atP1Step (lastBit (.pst 2#32) 0#1 1#1 0#1) ∧ (lastBit (.pst 2#32) 0#1 1#1 0#1).ibufRead 1 = 0#1 ∧
      (lastBit (.pst 2#32) 0#1 1#1 0#1).work.pol = 1#1) := by
  unfold atP1Step; decide

theorem witness_ManStepWritesCycle : atP1Step (manRunning 0 []) ∧ atP1Step (lastBit (.man 2#32) 0#1 0#1 0#1) := by
  unfold atP1Step; decide

theorem witness_DmanStepWritesCycle :
    (atP1Step (lastBit (.dman 2#32) 1#1 0#1 1#1) ∧
      (lastBit (.dman 2#32) 1#1 0#1 1#1).work.lvl ^^^ (lastBit (.dman 2#32) 1#1 0#1 1#1).ibufRead 1 = 0#1) ∧
    (atP1Step (lastBit (.dman 2#32) 0#1 0#1 1#1) ∧
      (lastBit (.dman 2#32) 0#1 0#1 1#1).work.lvl ^^^ (lastBit (.dman 2#32) 0#1 0#1 1#1).ibufRead 1 = 1#1) := by
  unfold atP1Step; decide

theorem witness_EndOfFirstPass :
    atP1End (manRunning 1 [.minus, .plus]) ∧ atP1End (busyAt (.nrz 0#32) .p1 0 0#3 [] []) ∧
    atP1End (busyAt (.b8zs 1#32) .p1 1 0#3 [1#1] [.plus]) := by
  unfold atP1End; decide

theorem witness_EndOfSecondPass :
    atP2End (busyAt (.hdb3 2#32) .p2 2 1#3 [1#1, 0#1] [.plus, .zero]) ∧
    Instr.hdb3 2#32 ∈ [Instr.b8zs 2#32, .hdb3 2#32] := by
  unfold atP2End; decide

theorem witness_OutputLengthLaw :
    (BlockInv (manRunning 1 [.minus, .plus]) ∧ (manRunning 1 [.minus, .plus]).busy = true ∧
      ∃ t, exec (manRunning 1 [.minus, .plus]).running (manRunning 1 [.minus, .plus]) = .next t ∧ t.status.st = .done) ∧
    encodeFrame 16 5#4 [1#1] = .ok [.minus, .plus] ∧ encodeFrame 16 3#4 [1#1] = .ok [.plus] :=
  ⟨⟨sound_manEnd, by decide, _, rfl, rfl⟩, rfl, rfl⟩

/-- A P2 step of command `i` at index 1 of three symbols, with `z` zeros counted. -/
def scanning (i : Instr) (z : BitVec 3) (v : LineSymbol) : State := busyAt i .p2 1 z [1#1, 0#1, 0#1] [.plus, v, .zero]

theorem witness_ScanCountsZeros :
    (atP2Step (scanning (.b8zs 3#32) 7#3 .minus) ∧ (scanning (.b8zs 3#32) 7#3 .minus).obufRead 1 ≠ 0b00#2) ∧
    (atP2Step (scanning (.b8zs 3#32) 6#3 .zero) ∧ (scanning (.b8zs 3#32) 6#3 .zero).obufRead 1 = 0b00#2 ∧
      (scanning (.b8zs 3#32) 6#3 .zero).work.zcnt.toNat + 1 < 8) ∧
    (atP2Step (scanning (.hdb3 3#32) 2#3 .zero) ∧ (scanning (.hdb3 3#32) 2#3 .zero).obufRead 1 = 0b00#2 ∧
      (scanning (.hdb3 3#32) 2#3 .zero).work.zcnt.toNat + 1 < 4) := by
  unfold atP2Step; decide

/-- A completed block of `i`, of length `L`, from index 1 on, after the pulse `p`. -/
def blockAfter (i : Instr) (L : Nat) (p : LineSymbol) : State :=
  busyAt i .p2 L (BitVec.ofNat 3 (L - 1)) (1#1 :: List.replicate L 0#1) (p :: List.replicate L .zero)

/-- A completed block of `i`, of length `L`, from index 0 on. -/
def blockAtStart (i : Instr) (L : Nat) : State :=
  busyAt i .p2 (L - 1) (BitVec.ofNat 3 (L - 1)) (List.replicate L 0#1) (List.replicate L .zero)

theorem witness_B8zsReplacesBlock :
    (atBlockEnd 8 1 (blockAfter (.b8zs 9#32) 8 .plus) ∧ (blockAfter (.b8zs 9#32) 8 .plus).obufRead 0 = 0b01#2) ∧
    (atBlockEnd 8 1 (blockAfter (.b8zs 9#32) 8 .minus) ∧ (blockAfter (.b8zs 9#32) 8 .minus).obufRead 0 = 0b11#2) := by
  unfold atBlockEnd atP2Step; decide

/-- The first run, odd and after either sign; and a later run, after gap 0. -/
theorem witness_Hdb3ReplacesRun :
    (atBlockEnd 4 1 (blockAfter (.hdb3 5#32) 4 .plus) ∧ (blockAfter (.hdb3 5#32) 4 .plus).obufRead 0 = 0b01#2 ∧
      (blockAfter (.hdb3 5#32) 4 .plus).work.pvalid = false) ∧
    (atBlockEnd 4 1 (blockAfter (.hdb3 5#32) 4 .minus) ∧ (blockAfter (.hdb3 5#32) 4 .minus).obufRead 0 = 0b11#2) ∧
    (atBlockEnd 4 5 hdb3AtSecondRun ∧ hdb3AtSecondRun.obufRead 4 = 0b01#2 ∧ hdb3AtSecondRun.work.pvalid = true) := by
  unfold atBlockEnd atP2Step; decide

theorem witness_LeadingBlockFaults :
    atBlockEnd 8 0 (blockAtStart (.b8zs 8#32) 8) ∧ atBlockEnd 4 0 (blockAtStart (.hdb3 4#32) 4) := by
  unfold atBlockEnd atP2Step; decide

theorem witness_CompletedBlockFollowsPulse :
    (BlockInv hdb3AtSecondRun ∧ atP2Step hdb3AtSecondRun ∧ hdb3AtSecondRun.obufRead hdb3AtSecondRun.pos = 0b00#2 ∧
      hdb3AtSecondRun.work.zcnt.toNat + 1 = blockLength hdb3AtSecondRun.work.opk ∧
      hdb3AtSecondRun.pos + 1 = 5 + blockLength hdb3AtSecondRun.work.opk ∧ hdb3AtSecondRun.work.pvalid = true) ∧
    (BlockInv b8zsAtBlock ∧ atP2Step b8zsAtBlock ∧ b8zsAtBlock.obufRead b8zsAtBlock.pos = 0b00#2 ∧
      b8zsAtBlock.work.zcnt.toNat + 1 = blockLength b8zsAtBlock.work.opk ∧
      b8zsAtBlock.pos + 1 = 1 + blockLength b8zsAtBlock.work.opk) := by
  refine ⟨⟨sound_hdb3AtSecondRun, ?_⟩, sound_b8zsAtBlock, ?_⟩ <;> (unfold atP2Step; decide)

theorem witness_InternalViolationNeverRecorded : BlockInv b8zsAtBlock ∧ ∃ t, step b8zsAtBlock = .next t :=
  ⟨sound_b8zsAtBlock, _, rfl⟩

/-- The step of command `i` answers a next state with another POL. -/
def flipsPol (i : Instr) (s : State) : Prop := ∃ t, exec i s = .next t ∧ t.work.pol ≠ s.work.pol

theorem witness_PolarityChangesOnlyInPulseSteps :
    ((lastBit (.b8zs 2#32) 1#1 1#1 0#1).busy = true ∧ flipsPol (.b8zs 2#32) (lastBit (.b8zs 2#32) 1#1 1#1 0#1)) ∧
    ((lastBit (.pst 2#32) 0#1 0#1 0#1).busy = true ∧ flipsPol (.pst 2#32) (lastBit (.pst 2#32) 0#1 0#1 0#1)) ∧
    (b8zsAtBlock.busy = true ∧ b8zsAtBlock.work.ph = .p2 ∧ ∃ t, exec (.b8zs 9#32) b8zsAtBlock = .next t) :=
  ⟨⟨by decide, _, rfl, by decide⟩, ⟨by decide, _, rfl, by decide⟩, by decide, by decide, _, rfl⟩

theorem witness_RunClassNeverConsulted : ∃ t, exec (.hdb3 9#32) hdb3AtSecondRun = .next t := ⟨_, rfl⟩

theorem witness_EncoderLeavesHostSide : ∃ t, exec (.b8zs 9#32) b8zsAtBlock = .next t := ⟨_, rfl⟩

theorem witness_HostWritesRegisters :
    ∀ a ∈ [HostAccess.regWrite 1 0x17#32, .regWrite 2 9#32, .regWrite 0 2#32, .regWrite 3 1#32, .regWrite 4 1#32],
      (idleWith 3#4 [1#1] [.access a]).busy = false ∧ (idleWith 3#4 [1#1] [.access a]).inputs = [.access a] ∧
      (2#32).getLsbD 0 = false := by decide

theorem witness_StatusWordsHostCanRead :
    BlockInv b8zsAtBlock ∧ serveAccess (.regRead 3) b8zsAtBlock = .next (b8zsAtBlock.reply (.reg 0x01#32)) :=
  ⟨sound_b8zsAtBlock, rfl⟩

theorem witness_IbufHoldsWhatHostWrote :
    0 < (ready 3#4 []).nMax ∧ 15 < (ready 3#4 []).nMax ∧ (ready 3#4 []).busy = false ∧
    15 < b8zsAtBlock.nMax ∧ b8zsAtBlock.busy = true := by decide

/-- A block that shows a result of one symbol, and the indexes either side of its end. -/
theorem witness_ObufReadableOnlyInResult :
    ∃ s : State, s.status.st = .done ∧ 0 < s.olen.toNat ∧ 0 < 2 * s.nMax ∧ ¬ 1 < s.olen.toNat ∧ 1 < 2 * s.nMax ∧
      31 < 2 * s.nMax :=
  ⟨{ manRunning 1 [.minus, .plus] with status := ⟨.done, .none, .none⟩, olen := 1#32 }, by decide⟩

theorem witness_OutOfRangeAccessesRefused :
    4 < 5 ∧ (ready 3#4 []).nMax ≤ 16 ∧ 2 * (ready 3#4 []).nMax ≤ 32 := by decide

theorem witness_ResetEventClearsBlock : ∃ s : State, s.busy = true ∧ s.inputs = [.access .reset] :=
  ⟨{ b8zsAtBlock with inputs := [.access .reset] }, by decide, rfl⟩

theorem witness_FaultEntryAndRecovery :
    ∃ s : State, s.status.st = .fault ∧ s.inputs = [] ∧ wellFormed s.nMax (.ami 0#32) = true ∧
      wellFormed s.nMax (.nrzi 0#32) = false :=
  ⟨raiseFault .invalidInput .empty (idleWith 2#4 [] []), by decide⟩

theorem witness_NrziRoundTrip : encodeFrame 16 2#4 [1#1, 1#1] = .ok [.plus, .zero] ∧
    1 < [1#1, 1#1].length := ⟨rfl, by decide⟩

theorem witness_BipolarPulsesAlternate :
    encodeFrame 16 3#4 [1#1, 0#1] = .ok [.plus, .zero] ∧ encodeFrame 16 4#4 [1#1, 0#1] = .ok [.zero, .plus] ∧
    1 < [1#1, 0#1].length := ⟨rfl, rfl, by decide⟩

theorem witness_ManchesterMidCycleTransition :
    5#4 ∈ [5#4, 6#4] ∧ encodeFrame 16 5#4 [1#1] = .ok [.minus, .plus] ∧
    encodeFrame 16 6#4 [1#1, 0#1] = .ok [.plus, .minus, .minus, .plus] ∧ 1 ≤ 1 ∧ 1 < [1#1, 0#1].length :=
  ⟨by decide, rfl, rfl, by decide, by decide⟩

/-- Lengths 1 and N_MAX; and a frame of either kind that faults. -/
theorem witness_LeadingZerosFaultExactly :
    (0 < [1#1].length ∧ [1#1].length ≤ 16 ∧ (List.replicate 16 1#1).length ≤ 16) ∧
    encodeFrame 16 7#4 (List.replicate 8 0#1) = .error (.invalidInput, .noPreceding) ∧
    encodeFrame 16 8#4 (List.replicate 4 0#1) = .error (.invalidInput, .noPreceding) := ⟨by decide, rfl, rfl⟩

/-- No zeros, and as many as N_MAX = 16 lets in. -/
theorem witness_B8zsFillsZeroRun : 0 + 1 ≤ 16 ∧ 15 + 1 ≤ 16 := by decide

/-- Four zeros, and as many as N_MAX = 16 lets in. -/
theorem witness_Hdb3FillsZeroRun : 0 + 5 ≤ 16 ∧ 11 + 5 ≤ 16 := by decide

end Sys2Proof.Tests
end

/-! ## PROOFS: the sequencer (40_sequencer.md). The checks of START (R80 to R84) -/

namespace Sys2Proof.Machine

theorem namesOperation_iff (i : Instr) : namesOperation i = true ↔ i.code.toNat < 9 := by
  cases i <;> simp [namesOperation, Instr.code]

theorem command_code (s : State) : s.command.code = s.kind := commandOf_code s.kind s.len

theorem command_len {s : State} (h : s.kind.toNat < 9) : s.command.len = s.len := by
  rw [State.command, commandOf_len, if_pos h]

/-- The words of a command name it. -/
theorem commandOf_code_len (i : Instr) : commandOf i.code i.len = i := by cases i <;> rfl

theorem startCheck_reserved {cap : Nat} {i : Instr} (h : 9 ≤ i.code.toNat) :
    startCheck cap i = some (.invalidKind, .none) := by
  rw [startCheck, if_pos h]

theorem startCheck_long {cap : Nat} {i : Instr} (hk : i.code.toNat < 9) (h : cap < i.len.toNat) :
    startCheck cap i = some (.invalidInput, .lenRange) := by
  rw [startCheck, if_neg (Nat.not_le.2 hk), if_pos h]

theorem startCheck_fits {cap : Nat} {i : Instr} (hk : i.code.toNat < 9) (h : i.len.toNat ≤ cap) :
    startCheck cap i = if i.len = 0#32 ∧ needsElement i.code then some (.invalidInput, .empty) else none := by
  rw [startCheck, if_neg (Nat.not_le.2 hk), if_neg (Nat.not_lt.2 h)]

/-- What passes the checks names an operation and fits IBUF. -/
theorem startCheck_none {cap : Nat} {i : Instr} (h : startCheck cap i = none) :
    i.code.toNat < 9 ∧ i.len.toNat ≤ cap := by
  have hk : i.code.toNat < 9 := by
    by_contra hk
    simp [startCheck_reserved (cap := cap) (Nat.not_lt.1 hk)] at h
  refine ⟨hk, ?_⟩
  by_contra hl
  simp [startCheck_long hk (Nat.not_le.1 hl)] at h

/-- A START whose check fails records the fault and clears OLEN (R80). -/
theorem startCommand_raises {i : Instr} {s : State} {c : Cause} {f : Info} (h : startCheck s.nMax i = some (c, f)) :
    startCommand i s = { s with status := ⟨.fault, c, f⟩, olen := 0#32 } := by
  rw [startCommand, h]; rfl

/-- A START that passes the checks begins the operation (R84). -/
theorem startCommand_begins {i : Instr} {s : State} (h : startCheck s.nMax i = none) :
    startCommand i s = { s with status := ⟨.busy, .none, .none⟩, olen := 0#32, work := Work.initial i } := by
  rw [startCommand, h]; rfl

/-- STATUS after START: BUSY, or the fault that the checks give. -/
theorem startCommand_status (i : Instr) (s : State) :
    (startCommand i s).status =
      match startCheck s.nMax i with
      | some (c, f) => ⟨.fault, c, f⟩
      | none => ⟨.busy, .none, .none⟩ := by
  unfold startCommand
  cases startCheck s.nMax i <;> rfl

/-- STATUS after the START of a legal KIND on a frame that fits. -/
theorem startCommand_status_fits {i : Instr} {s : State} (hk : i.code.toNat < 9) (hl : i.len.toNat ≤ s.nMax) :
    (startCommand i s).status =
      if i.len = 0#32 ∧ needsElement i.code then ⟨.fault, .invalidInput, .empty⟩ else ⟨.busy, .none, .none⟩ := by
  rw [startCommand_status, startCheck_fits hk hl]
  split_ifs <;> rfl

/-- Settles O12: the reserved kinds fail the first check, whatever LEN is, and no other kind does. -/
theorem startRejectsReservedKind : Obligations.StartRejectsReservedKind := by
  refine ⟨fun s i hb hi => ?_, fun s rest hb hs => ⟨fun hk => ?_, fun hk => ⟨_, step_start hs hb, ?_⟩⟩⟩
  · have hr : 9 ≤ i.code.toNat := by
      simp only [List.mem_cons, List.not_mem_nil, or_false] at hi
      rcases hi with rfl | rfl | rfl | rfl | rfl | rfl | rfl <;> decide
    rw [exec_idle i hb, startCommand_raises (startCheck_reserved hr)]
  · rw [step_start hs hb, startCommand_raises (startCheck_reserved (by rwa [command_code]))]
  · have hk : s.command.code.toNat < 9 := by rwa [command_code]
    rcases Nat.lt_or_ge s.nMax s.command.len.toNat with hl | hl
    · rw [startCommand_status, startCheck_long hk hl]; simp
    · rw [startCommand_status_fits (s := { s with inputs := rest }) hk hl]; split_ifs <;> simp

/-- Settles O13: LEN is checked against N_MAX after KIND and before the empty frame. -/
theorem startRejectsLongFrame : Obligations.StartRejectsLongFrame := by
  intro s rest hb hs hk
  have hk' : s.command.code.toNat < 9 := by rwa [command_code]
  have hlen := command_len hk
  refine ⟨fun hl => ?_, fun hl => ⟨_, step_start hs hb, ?_⟩⟩
  · rw [step_start hs hb, startCommand_raises (startCheck_long hk' (by rwa [hlen]))]
  · rw [startCommand_status_fits hk' (by rwa [hlen])]
    split_ifs <;> simp

/-- At the end of P1 a command of a running operation runs its end of the pass (R86). -/
theorem exec_p1_end {i : Instr} {s : State} (hn : namesOperation i = true) (hs : atP1End s) :
    exec i s = .next (endPassOf i s) := by
  obtain ⟨hb, hp, he⟩ := hs
  rw [exec_p1 hn hb hp, passOne_end he]

/-- Settles O14: the third check raises EMPTY for the kinds that need an element; for the others IDX = N = 0 right
after START, so the operation's first event is the end of P1. -/
theorem startOnEmptyFrame : Obligations.StartOnEmptyFrame := by
  refine ⟨fun s i hb hi => ?_, fun s i hb hi => ?_⟩
  · have hc : startCheck s.nMax i = some (.invalidInput, .empty) := by
      simp only [List.mem_cons, List.not_mem_nil, or_false] at hi
      rcases hi with rfl | rfl | rfl | rfl <;> simp [startCheck, Instr.code, Instr.len, needsElement]
    rw [exec_idle i hb, startCommand_raises hc]
  · have hc : startCheck s.nMax i = none ∧ i.len = 0#32 ∧ namesOperation i = true ∧
        ∀ t : State, (endPassOf i t).status = ⟨.done, t.status.cause, t.status.info⟩ ∧
          (t.work.n = 0#32 → (endPassOf i t).olen = 0#32) := by
      simp only [List.mem_cons, List.not_mem_nil, or_false] at hi
      rcases hi with rfl | rfl | rfl | rfl | rfl <;>
        simp +contextual [startCheck, Instr.code, Instr.len, needsElement, namesOperation, endPassOf, endOneLevel,
          endTwoLevel]
    obtain ⟨hnone, hlen, hn, hend⟩ := hc
    refine ⟨_, _, exec_idle i hb, ?_, exec_p1_end hn ?_, ?_, ?_⟩
    · rw [startCommand_begins hnone]; rfl
    · rw [startCommand_begins hnone]; exact ⟨rfl, rfl, hlen.symm⟩
    · rw [(hend _).1, startCommand_begins hnone]
    · exact (hend _).2 (by rw [startCommand_begins hnone]; exact hlen)

/-! ## Host accesses while BUSY (R92, R196) -/

/-- While BUSY, a host access other than RESET moves on nothing but the replies and the draws. -/
theorem serveAccess_busy {a : HostAccess} {s t : State} (hb : s.busy = true) (ha : a ≠ .reset)
    (h : serveAccess a s = .next t) : ∃ p d, t = { s with replies := p, draws := d } := by
  rcases serveAccess_next h with ⟨r, rfl⟩ | rfl | ⟨r, v, -, rfl⟩ | ⟨i, b, -, -, hf, -⟩ | ⟨j, -, rfl⟩ | ⟨hr, -⟩
  · exact ⟨_, _, rfl⟩
  · exact ⟨_, _, rfl⟩
  · exact ⟨s.replies, s.draws, by simp [State.writeReg, hb]⟩
  · simp [hb] at hf
  · have hv : s.obufValid j = false := by
      simp only [State.busy, beq_iff_eq] at hb
      simp [State.obufValid, hb]
    exact ⟨_, _, by rw [State.readObuf, hv]; rfl⟩
  · exact absurd hr ha

/-- A quiet access is answered, and is no RESET. -/
theorem serveAccess_quiet {a : HostAccess} {s : State} (h : quietInput s.nMax (.access a) = true) :
    a ≠ .reset ∧ ∃ t, serveAccess a s = .next t := by
  cases a with
  | regRead r =>
    have hr : r ≤ 4 := by simpa [quietInput] using h
    refine ⟨by simp, ?_⟩
    interval_cases r <;> exact ⟨_, rfl⟩
  | reset => cases h
  | _ => simp_all [quietInput, serveAccess]

/-- While BUSY, the next entry of the interleaving is served if it is a host access, and else the running command
takes its step. -/
theorem step_busy_cases {s : State} (hb : s.busy = true) :
    (step s = exec s.running { s with inputs := s.inputs.tail }) ∨
    ∃ a rest, s.inputs = .access a :: rest ∧ step s = serveAccess a { s with inputs := rest } := by
  have hbr : ∀ r, State.busy { s with inputs := r } = true := fun _ => hb
  cases hi : s.inputs with
  | nil =>
    have hs : { s with inputs := [] } = s := by rw [← hi]
    exact .inl (by simp [step, nextEvent, hi, encoderEvent, hb, hs])
  | cons e rest =>
    cases e with
    | encoderTurn => exact .inl (by simp [step, nextEvent, hi, encoderEvent, hbr, State.running])
    | access a => exact .inr ⟨a, rest, rfl, by simp [step, nextEvent, hi, hb]⟩

/-- Settles O15: a START while BUSY is a write of CTRL that does nothing; the other accesses by `serveAccess_busy`. -/
theorem busyBlockIgnoresHostWrites : Obligations.BusyBlockIgnoresHostWrites := by
  refine ⟨fun s rest hb hs => ?_, fun a s t hb ha h => ?_⟩
  · obtain ⟨v, -, hi⟩ := hs
    have hbr : State.busy { s with inputs := rest } = true := hb
    simp [step, nextEvent, hi, hb, serveAccess, State.writeReg, hbr]
  · obtain ⟨p, d, rfl⟩ := serveAccess_busy hb ha h
    exact ⟨rfl, rfl, rfl, rfl, rfl, rfl, rfl, rfl, rfl, rfl⟩

/-! ## The end of P2 (R89) -/

theorem blockLength_code (i : Instr) :
    blockLength i.code = match i with | .b8zs _ => 8 | .hdb3 _ => 4 | _ => 0 := by
  cases i <;> rfl

/-- Settles O24: the end of P2 is `finishWith` on the copy N. -/
theorem endOfSecondPass : Obligations.EndOfSecondPass := by
  rintro len s i ⟨hb, hp, he⟩ hi
  have hL : blockLength i.code ≠ 0 := by
    simp only [List.mem_cons, List.not_mem_nil, or_false] at hi
    rcases hi with rfl | rfl <;> simp [blockLength_code]
  rw [exec_p2 hL hb hp, passTwo_end he]
  rfl

end Sys2Proof.Machine

/-! ## encode, one element at a time (R95)

`encodeFrame` composes whole sequences. The encoder emits them bit by bit and replaces them block by block; the
definitions here cut `encodeBits` in the same pieces, the same for all nine kinds. -/

namespace Sys2Proof.Machine

/-- What a bit at position `pos` emits under `pol` and `lvl`, and the next POL and LVL. -/
def emit (i : Instr) (pos : Nat) (pol lvl b : Bit) : List LineSymbol × Bit × Bit :=
  match i with
  | .nrz _ => ([nrz b], pol, lvl)
  | .nrzl _ => ([nrzl b], pol, lvl)
  | .nrzi _ => ([nrziSym (nrziLevel pos b lvl)], pol, nrziLevel pos b lvl)
  | .ami _ | .b8zs _ | .hdb3 _ => ([(pulse (b == 1#1) pol).1], (pulse (b == 1#1) pol).2, lvl)
  | .pst _ => ([(pulse (b == 0#1) pol).1], (pulse (b == 0#1) pol).2, lvl)
  | .man _ => ([(man b).1, (man b).2], pol, lvl)
  | .dman _ => ([(dman b lvl).1.1, (dman b lvl).1.2], pol, (dman b lvl).2)
  | .reserved9 | .reserved10 | .reserved11 | .reserved12 | .reserved13 | .reserved14 | .reserved15 => ([], pol, lvl)

/-- What pass P1 still emits, from position `pos` on. -/
def emitted (i : Instr) (pos : Nat) (pol lvl : Bit) : List Bit → List LineSymbol
  | [] => []
  | b :: rest =>
    let out := emit i pos pol lvl b
    out.1 ++ emitted i (pos + 1) out.2.1 out.2.2 rest

/-- The pattern of a kind's replacement at `s0`, after the last recorded run and the preceding symbol. -/
def patternOf (i : Instr) (s0 : Nat) (r : Option Nat) (p : LineSymbol) : List LineSymbol :=
  match i with
  | .hdb3 _ => hdb3Pattern (classify s0 r.isSome (r.getD 0)) p
  | _ => b8zsPattern p

/-- The start of the last recorded run after a replacement at `s0`: HDB3 alone keeps a record (R157). -/
def nextRecord (i : Instr) (s0 : Nat) (r : Option Nat) : Option Nat :=
  match i with
  | .hdb3 _ => some s0
  | _ => r

/-- A kind's replacement as a function on sequences. -/
def replaceFnOf (i : Instr) : ReplaceFn (Option Nat) := fun s0 r q =>
  if s0 = 0 then .error (.invalidInput, .noPreceding)
  else .ok (nextRecord i s0 r, overwrite q s0 (patternOf i s0 r (symAt q (s0 - 1))))

/-- Everything that follows pass P1, on the sequence that it emitted. -/
def afterP1 (i : Instr) (q : List LineSymbol) : Except OpFault (List LineSymbol) :=
  if blockLength i.code = 0 then .ok q else substitute (blockLength i.code) (replaceFnOf i) none q

/-! ### The pieces make up `encodeBits` -/

theorem emitted_nrz (len : Word) (pos : Nat) (pol lvl : Bit) (bits : List Bit) :
    emitted (.nrz len) pos pol lvl bits = bits.map nrz := by
  induction bits generalizing pos with
  | nil => rfl
  | cons b rest ih => simp [emitted, emit, ih]

theorem emitted_nrzl (len : Word) (pos : Nat) (pol lvl : Bit) (bits : List Bit) :
    emitted (.nrzl len) pos pol lvl bits = bits.map nrzl := by
  induction bits generalizing pos with
  | nil => rfl
  | cons b rest ih => simp [emitted, emit, ih]

theorem emitted_nrzi (len : Word) (pos : Nat) (pol lvl : Bit) (bits : List Bit) :
    emitted (.nrzi len) pos pol lvl bits = nrziSeq pos lvl bits := by
  induction bits generalizing pos lvl with
  | nil => rfl
  | cons b rest ih => simp [emitted, emit, nrziSeq, ih]

theorem emitted_man (len : Word) (pos : Nat) (pol lvl : Bit) (bits : List Bit) :
    emitted (.man len) pos pol lvl bits = manSeq bits := by
  induction bits generalizing pos with
  | nil => rfl
  | cons b rest ih => simp [emitted, emit, manSeq, ih]

theorem emitted_dman (len : Word) (pos : Nat) (pol lvl : Bit) (bits : List Bit) :
    emitted (.dman len) pos pol lvl bits = dmanSeq lvl bits := by
  induction bits generalizing pos lvl with
  | nil => rfl
  | cons b rest ih => simp [emitted, emit, dmanSeq, ih]

/-- The kinds whose P1 step is the alternation machine on the bit `active` (R110). -/
theorem emitted_pulse {i : Instr} {active : Bit}
    (hi : ∀ pos pol lvl b, emit i pos pol lvl b = ([(pulse (b == active) pol).1], (pulse (b == active) pol).2, lvl))
    (pos : Nat) (pol lvl : Bit) (bits : List Bit) : emitted i pos pol lvl bits = pulseSeq active pol bits := by
  induction bits generalizing pos pol with
  | nil => rfl
  | cons b rest ih => simp [emitted, pulseSeq, hi, ih]

/-- B8ZS keeps no record, so the scan does not depend on one. -/
theorem substScan_b8zs (len : Word) (rest pos z : Nat) (r : Option Nat) (q : List LineSymbol) :
    substScan 8 (replaceFnOf (.b8zs len)) rest pos z r q = substScan 8 b8zsReplaceFn rest pos z () q := by
  induction rest generalizing pos z r q with
  | zero => rfl
  | succ rest ih =>
    simp only [substScan, ih]
    by_cases h0 : pos - 7 = 0 <;> simp [replaceFnOf, b8zsReplaceFn, patternOf, h0]

/-- `encode` of a kind that names an operation is its pass P1 and then what follows it. -/
theorem encodeBits_eq {i : Instr} (hi : namesOperation i = true) (bits : List Bit) :
    encodeBits i.code bits = afterP1 i (emitted i 0 0#1 0#1 bits) := by
  cases i with
  | nrz len => rw [emitted_nrz]; rfl
  | nrzl len => rw [emitted_nrzl]; rfl
  | nrzi len => rw [emitted_nrzi]; rfl
  | man len => rw [emitted_man]; rfl
  | dman len => rw [emitted_dman]; rfl
  | ami len | pst len =>
    rw [emitted_pulse (fun _ _ _ _ => rfl)]
    rfl
  | b8zs len =>
    rw [emitted_pulse (active := 1#1) (fun _ _ _ _ => rfl)]
    exact (substScan_b8zs len _ 0 0 none _).symm
  | hdb3 len =>
    rw [emitted_pulse (active := 1#1) (fun _ _ _ _ => rfl)]
    rfl
  | _ => cases hi

/-- START checks what `encode` checks. -/
theorem encodeCheck_eq (cap : Nat) (k : BitVec 4) (len : Word) :
    encodeCheck cap k len.toNat = startCheck cap (commandOf k len) := by
  have hz : len.toNat = 0 ↔ len = 0#32 := by rw [← BitVec.toNat_inj]; rfl
  rw [encodeCheck, startCheck, commandOf_code, commandOf_len]
  by_cases hk : 9 ≤ k.toNat
  · rw [if_pos hk, if_pos hk]
  · rw [if_neg hk, if_neg hk, if_pos (Nat.not_le.1 hk)]
    simp only [hz]

/-! ### Lengths -/

/-- How many symbols a kind emits for each bit. -/
theorem emit_length {i : Instr} (hi : namesOperation i = true) (pos : Nat) (pol lvl b : Bit) :
    (emit i pos pol lvl b).1.length = writtenBy i.code 1 := by
  cases i <;> first | rfl | cases hi

theorem writtenBy_succ (opk : BitVec 4) (n : Nat) : writtenBy opk (n + 1) = writtenBy opk n + writtenBy opk 1 := by
  unfold writtenBy; split_ifs <;> omega

@[simp] theorem writtenBy_zero (opk : BitVec 4) : writtenBy opk 0 = 0 := by simp [writtenBy]

/-- A kind with a substitution pass emits one symbol for each bit. -/
theorem writtenBy_of_block {opk : BitVec 4} (h : blockLength opk ≠ 0) (n : Nat) : writtenBy opk n = n := by
  have h56 : ¬ (opk = 5#4 ∨ opk = 6#4) := by
    rintro (rfl | rfl) <;> exact h rfl
  rw [writtenBy, if_neg h56]

theorem emitted_length {i : Instr} (hi : namesOperation i = true) (pos : Nat) (pol lvl : Bit) (bits : List Bit) :
    (emitted i pos pol lvl bits).length = writtenBy i.code bits.length := by
  induction bits generalizing pos pol lvl with
  | nil => simp [emitted]
  | cons b rest ih =>
    simp only [emitted, List.length_append, ih, emit_length hi, List.length_cons, writtenBy_succ _ rest.length]
    omega

theorem overwrite_length {q pat : List LineSymbol} {s0 : Nat} (h : s0 + pat.length ≤ q.length) :
    (overwrite q s0 pat).length = q.length := by
  simp only [overwrite, List.length_append, List.length_take, List.length_drop]
  omega

theorem patternOf_length {i : Instr} (hL : blockLength i.code ≠ 0) (s0 : Nat) (r : Option Nat) (p : LineSymbol) :
    (patternOf i s0 r p).length = blockLength i.code := by
  cases i with
  | b8zs len => rfl
  | hdb3 len => exact hdb3Pattern_length _ _
  | _ => exact absurd rfl hL

/-- A replacement that does not fault keeps the length of a sequence that holds its block. -/
theorem replaceFnOf_length {i : Instr} (hL : blockLength i.code ≠ 0) {pos : Nat} {r r' : Option Nat}
    {q q' : List LineSymbol} (hpos : pos < q.length)
    (h : replaceFnOf i (pos + 1 - blockLength i.code) r q = .ok (r', q')) : q'.length = q.length := by
  unfold replaceFnOf at h
  split at h
  · cases h
  · cases h
    exact overwrite_length (by rw [patternOf_length hL]; omega)

/-- The scan keeps the length. -/
theorem substScan_length {i : Instr} (hL : blockLength i.code ≠ 0) {rest pos z : Nat} {r : Option Nat}
    {q q' : List LineSymbol} (hn : pos + rest = q.length)
    (h : substScan (blockLength i.code) (replaceFnOf i) rest pos z r q = .ok q') : q'.length = q.length := by
  induction rest generalizing pos z r q with
  | zero => cases h; rfl
  | succ rest ih =>
    simp only [substScan] at h
    split_ifs at h with h1 h2
    · exact ih (by omega) h
    · exact ih (by omega) h
    · split at h
      · cases h
      · next r' u hu =>
        have hlen := replaceFnOf_length hL (by omega) hu
        rw [ih (by omega) h, hlen]

theorem afterP1_length {i : Instr} {q q' : List LineSymbol} (h : afterP1 i q = .ok q') : q'.length = q.length := by
  unfold afterP1 at h
  split at h
  · cases h; rfl
  · next hL => exact substScan_length hL (by simp) h

theorem encodeFrame_length {cap : Nat} {k : BitVec 4} {bits : List Bit} {q : List LineSymbol}
    (h : encodeFrame cap k bits = .ok q) : q.length = writtenBy k bits.length := by
  unfold encodeFrame at h
  split at h
  · cases h
  · next hc =>
    have hk : k.toNat < 9 := by
      by_contra hk
      simp [encodeCheck, Nat.not_lt.1 hk] at hc
    have hcode : (commandOf k 0#32).code = k := commandOf_code k 0#32
    have hn : namesOperation (commandOf k 0#32) = true := (namesOperation_iff _).2 (by rwa [hcode])
    rw [← hcode, encodeBits_eq hn] at h
    rw [afterP1_length h, emitted_length hn, hcode]

/-! ### OLEN (R96) -/

/-- N is at most 2^31 - 1, so the doubling of R86 does not wrap. -/
theorem two_mul_toNat {n : Word} (h : n.toNat ≤ 2147483647) : (2#32 * n).toNat = 2 * n.toNat := by
  rw [BitVec.toNat_mul, show (2#32).toNat = 2 from rfl]
  omega

/-- The end of P1 of a kind without a substitution pass: DONE, with OLEN the number of symbols written (R86). -/
theorem endPassOf_finishes {i : Instr} {s : State} (hi : namesOperation i = true) (hL : blockLength i.code = 0)
    (hn : s.work.n.toNat ≤ 2147483647) :
    ∃ w : Word, endPassOf i s = finishWith w s ∧ w.toNat = writtenBy i.code s.work.n.toNat := by
  cases i with
  | nrz | nrzl | nrzi | ami | pst => exact ⟨s.work.n, rfl, rfl⟩
  | man | dman => exact ⟨2#32 * s.work.n, rfl, two_mul_toNat hn⟩
  | b8zs | hdb3 => cases hL
  | _ => cases hi

/-- The end of P1 of a kind with a substitution pass enters P2 (R86). -/
theorem endPassOf_enters {i : Instr} (hL : blockLength i.code ≠ 0) : endPassOf i = enterP2 := by
  cases i with
  | b8zs | hdb3 => rfl
  | _ => exact absurd rfl hL

/-- A P1 step of any kind writes what its bit emits behind what stands there, and moves POL and LVL (R85). -/
theorem codeBitOf_eq (i : Instr) (s : State) :
    codeBitOf i s =
      let out := emit i s.pos s.work.pol s.work.lvl (s.ibufRead s.pos)
      ((s.putSymbols (writtenBy i.code s.pos) out.1).setPol out.2.1).setLvl out.2.2 := by
  cases i <;> rfl

theorem replaceOf_status {i : Instr} {s0 : Nat} {s u : State} (h : replaceOf i s0 s = .wrote u) :
    u.status = s.status := by
  cases i with
  | b8zs len => obtain ⟨-, -, p, -, -, rfl⟩ := b8zsReplace_wrote h; simp
  | hdb3 len => obtain ⟨-, -, p, -, -, rfl⟩ := hdb3Replace_wrote h; simp
  | _ => cases h; rfl

/-- A P2 step does not end DONE: it goes on, or raises a fault (R87). -/
theorem scanStep_ne_done {L : Nat} {r : Nat → State → Replaced} {s t : State} (hs : s.status.st ≠ .done)
    (hr : ∀ s0 s u, r s0 s = .wrote u → u.status = s.status) (h : scanStep L r s = .next t) :
    t.status.st ≠ .done := by
  rcases scanStep_next h with ⟨-, rfl⟩ | ⟨-, -, rfl⟩ | ⟨-, -, u, hu, rfl⟩ | ⟨-, -, c, f, -, rfl⟩
  · simpa using hs
  · simpa using hs
  · rw [advance_status, hr _ _ _ hu]; simpa using hs
  · simp

/-- Where a running command ends DONE, OLEN is the number of symbols that P1 wrote. -/
theorem exec_done_olen {i : Instr} {s t : State} (hb : s.busy = true) (hn : s.work.n.toNat ≤ 2147483647)
    (h : exec i s = .next t) (hd : t.status.st = .done) : t.olen.toNat = writtenBy i.code s.work.n.toNat := by
  have hst : s.status.st = .busy := by simpa [State.busy] using hb
  rcases exec_next h with ⟨hb', -⟩ | ⟨-, hi, -, h1⟩ | ⟨-, hL, -, h2⟩
  · simp [hb] at hb'
  · rcases passOne_next h1 with ⟨-, rfl⟩ | ⟨-, rfl⟩
    · simp [codeBitOf_eq, hst] at hd
    · by_cases hL : blockLength i.code = 0
      · obtain ⟨w, hw, hlen⟩ := endPassOf_finishes (s := s) hi hL hn
        rw [hw]; exact hlen
      · simp [endPassOf_enters hL, hst] at hd
  · rcases passTwo_next h2 with ⟨-, h2⟩ | ⟨-, rfl⟩
    · exact absurd hd (scanStep_ne_done (by simp [hst]) (fun _ _ _ hu => replaceOf_status hu) h2)
    · rw [finishWith_olen, writtenBy_of_block hL]

/-- Settles O25: the step by `exec_done_olen`, the function by `encodeFrame_length`. -/
theorem outputLengthLaw : Obligations.OutputLengthLaw := by
  refine ⟨fun s t hinv hb h hd => ?_, fun cap k bits q h => encodeFrame_length h⟩
  have hn : s.work.n.toNat ≤ 2147483647 := le_trans (hinv.running hb).fits hinv.capHigh
  have hcode : s.running.code = s.work.opk := commandOf_code _ _
  rw [exec_done_olen hb hn h hd, hcode]
  rfl

end Sys2Proof.Machine

/-! ## A running operation computes encode (R95)

The invariant of the simulation: what the encoder has done so far, and what `encode` still asks for from there, make up
the whole outcome `E`. -/

namespace Sys2Proof.Machine

/-- The symbols of `q` stand in OBUF from index 0 on. -/
def holdsSymbols (s : State) (q : List LineSymbol) : Prop := ∀ j, j < q.length → s.obufRead j = (symAt q j).code

/-- The HDB3 record, as `encode` keeps it. -/
def recordOf (w : Work) : Option Nat := if w.pvalid then some w.pstart.toNat else none

/-- Just before `pos` stand `z` zeros, too few for a block, and a pulse before them unless they begin the sequence
(R87, R88). -/
structure ZerosBefore (L : Nat) (q : List LineSymbol) (pos z : Nat) : Prop where
  short : z < L
  bound : z ≤ pos
  zeros : ∀ j, pos - z ≤ j → j < pos → symAt q j = .zero
  pulse : 0 < pos - z → symAt q (pos - z - 1) ≠ .zero

/-- Command `i` runs, in either pass. -/
structure InOperation (i : Instr) (s : State) : Prop where
  status : s.status = ⟨.busy, .none, .none⟩
  olen : s.olen = 0#32
  opk : s.work.opk = i.code
  n : s.work.n = i.len
  names : namesOperation i = true
  short : i.len.toNat ≤ 2147483647
  inRange : s.pos ≤ i.len.toNat

/-- In pass P1: `done` has been emitted, and with what the rest of the frame emits it gives the outcome `E`. -/
structure InPassOne (i : Instr) (E : Except OpFault (List LineSymbol)) (done : List LineSymbol) (s : State) : Prop
    extends InOperation i s where
  ph : s.work.ph = .p1
  record : s.work.pvalid = false
  written : done.length = writtenBy i.code s.pos
  holds : holdsSymbols s done
  rest : afterP1 i (done ++ emitted i s.pos s.work.pol s.work.lvl ((s.frame i.len.toNat).drop s.pos)) = E

/-- In pass P2: OBUF holds `q`, and the scan of the rest of it gives the outcome `E`. -/
structure InPassTwo (i : Instr) (E : Except OpFault (List LineSymbol)) (q : List LineSymbol) (s : State) : Prop
    extends InOperation i s where
  ph : s.work.ph = .p2
  kind : blockLength i.code ≠ 0
  length : q.length = i.len.toNat
  holds : holdsSymbols s q
  zeros : ZerosBefore (blockLength i.code) q s.pos s.work.zcnt.toNat
  rest : substScan (blockLength i.code) (replaceFnOf i) (i.len.toNat - s.pos) s.pos s.work.zcnt.toNat
    (recordOf s.work) q = E

/-- Command `i` runs towards the outcome `E`. -/
def Computing (i : Instr) (E : Except OpFault (List LineSymbol)) (s : State) : Prop :=
  (∃ done, InPassOne i E done s) ∨ ∃ q, InPassTwo i E q s

/-- From `s` an event has led to `t` where the outcome `E` is shown, or comes nearer. -/
structure Advances (i : Instr) (E : Except OpFault (List LineSymbol)) (s t : State) : Prop where
  inputs : t.inputs = s.inputs
  nMax : t.nMax = s.nMax
  goal : showsOutcome t E ∨ (Computing i E t ∧ stepsLeft t < stepsLeft s)

/-! ### What OBUF holds -/

theorem holdsSymbols_congr {s t : State} {q : List LineSymbol} (h : holdsSymbols s q)
    (ht : ∀ j, t.obufRead j = s.obufRead j) : holdsSymbols t q :=
  fun j hj => (ht j).trans (h j hj)

theorem holdsSymbols_append {s : State} {q : List LineSymbol} (h : holdsSymbols s q) (pat : List LineSymbol) :
    holdsSymbols (s.putSymbols q.length pat) (q ++ pat) := by
  intro j hj
  rw [List.length_append] at hj
  rw [putSymbols_obufRead]
  rcases Nat.lt_or_ge j q.length with hlt | hge
  · rw [if_neg (by omega), h j hlt, symAt, symAt, List.getD_append _ _ _ _ hlt]
  · rw [if_pos ⟨hge, hj⟩, symAt, List.getD_append_right _ _ _ _ hge]

theorem symAt_overwrite {q pat : List LineSymbol} {s0 : Nat} (h : s0 + pat.length ≤ q.length) (j : Nat) :
    symAt (overwrite q s0 pat) j =
      if s0 ≤ j ∧ j < s0 + pat.length then symAt pat (j - s0) else symAt q j := by
  have htake : (q.take s0).length = s0 := by rw [List.length_take]; omega
  rw [symAt, overwrite, List.append_assoc]
  rcases Nat.lt_or_ge j s0 with hlt | hge
  · rw [List.getD_append _ _ _ _ (by omega), if_neg (by omega), symAt]
    simp [hlt]
  · rw [List.getD_append_right _ _ _ _ (by omega), htake]
    rcases Nat.lt_or_ge j (s0 + pat.length) with hin | hout
    · rw [List.getD_append _ _ _ _ (by omega), if_pos ⟨hge, hin⟩, symAt]
    · rw [List.getD_append_right _ _ _ _ (by omega), if_neg (by omega), symAt]
      simp only [List.getD_eq_getElem?_getD, List.getElem?_drop]
      congr 2
      omega

theorem holdsSymbols_overwrite {s : State} {q : List LineSymbol} (h : holdsSymbols s q) {s0 : Nat}
    {pat : List LineSymbol} (hfit : s0 + pat.length ≤ q.length) :
    holdsSymbols (s.putSymbols s0 pat) (overwrite q s0 pat) := by
  intro j hj
  rw [overwrite_length hfit] at hj
  rw [putSymbols_obufRead, symAt_overwrite hfit]
  split_ifs
  · rfl
  · exact h j hj

/-- A result that holds `q` shows `q`. -/
theorem showsOutcome_ok {t : State} {q : List LineSymbol} (hst : t.status = ⟨.done, .none, .none⟩)
    (hlen : t.olen.toNat = q.length) (h : holdsSymbols t q) : showsOutcome t (.ok q) := by
  refine ⟨hst, hlen, List.ext_getElem (by simp [State.result, hlen]) fun j h1 h2 => ?_⟩
  have hj : j < q.length := by simpa using h2
  simp [State.result, h j hj, symAt, hj]

theorem showsOutcome_not_busy {t : State} {E : Except OpFault (List LineSymbol)} (h : showsOutcome t E) :
    t.busy = false := by
  cases E with
  | ok q => obtain ⟨hst, -, -⟩ := h; simp [State.busy, hst]
  | error f => obtain ⟨hst, -⟩ := h; simp [State.busy, hst]

/-! ### The frame and the index -/

theorem frame_congr {s t : State} (h : ∀ j, t.ibufRead j = s.ibufRead j) (n : Nat) : t.frame n = s.frame n := by
  simp [State.frame, h]

@[simp] theorem frame_length (s : State) (n : Nat) : (s.frame n).length = n := by simp [State.frame]

/-- The next bit of the frame is the one at `pos`. -/
theorem frame_drop (s : State) {pos n : Nat} (h : pos < n) :
    (s.frame n).drop pos = s.ibufRead pos :: (s.frame n).drop (pos + 1) := by
  rw [List.drop_eq_getElem_cons (by simpa using h)]
  simp [State.frame]

/-- IDX does not wrap below N. -/
theorem toNat_succ {x : Word} {n : Nat} (h : x.toNat < n) (hn : n ≤ 2147483647) :
    (x + 1#32).toNat = x.toNat + 1 := by
  rw [BitVec.toNat_add, show (1#32).toNat = 1 from rfl]
  omega

theorem advance_pos {s : State} {n : Nat} (h : s.pos < n) (hn : n ≤ 2147483647) : s.advance.pos = s.pos + 1 :=
  toNat_succ h hn

theorem codeBitOf_advance_pos (i : Instr) {s : State} {n : Nat} (h : s.pos < n) (hn : n ≤ 2147483647) :
    ((codeBitOf i s).advance).pos = s.pos + 1 := by
  have hsame : (codeBitOf i s).pos = s.pos := by simp [codeBitOf_eq]
  rw [advance_pos (hsame ▸ h) hn, hsame]

theorem stepsLeft_p1 {s : State} (h : s.work.ph = .p1) :
    stepsLeft s =
      s.work.n.toNat - s.pos + 1 + (if blockLength s.work.opk = 0 then 0 else s.work.n.toNat + 1) := by
  simp [stepsLeft, h, State.pos]

theorem stepsLeft_p2 {s : State} (h : s.work.ph = .p2) : stepsLeft s = s.work.n.toNat - s.pos + 1 := by
  simp [stepsLeft, h, State.pos]

theorem InOperation.busy {i : Instr} {s : State} (h : InOperation i s) : s.busy = true := by
  simp [State.busy, h.status]

theorem InOperation.running {i : Instr} {s : State} (h : InOperation i s) : s.running = i := by
  rw [State.running, h.opk, h.n, commandOf_code_len]

/-! ### Pass P1 -/

section
variable {i : Instr} {E : Except OpFault (List LineSymbol)} {done : List LineSymbol} {s : State}

/-- A P1 step emits its bit's symbols behind `done` (R85). -/
theorem InPassOne.step (h : InPassOne i E done s) (hlt : s.pos < i.len.toNat) :
    InPassOne i E (done ++ (emit i s.pos s.work.pol s.work.lvl (s.ibufRead s.pos)).1) (codeBitOf i s).advance := by
  have hpos := codeBitOf_advance_pos i hlt h.short
  have hframe : ((codeBitOf i s).advance).frame i.len.toNat = s.frame i.len.toNat :=
    frame_congr (fun j => by simp [codeBitOf_eq]) _
  refine ⟨⟨?_, ?_, ?_, ?_, h.names, h.short, by rw [hpos]; exact hlt⟩, ?_, ?_, ?_, ?_, ?_⟩
  · simpa [codeBitOf_eq] using h.status
  · simpa [codeBitOf_eq] using h.olen
  · simpa [codeBitOf_eq] using h.opk
  · simpa [codeBitOf_eq] using h.n
  · simpa [codeBitOf_eq] using h.ph
  · simpa [codeBitOf_eq] using h.record
  · rw [List.length_append, h.written, emit_length h.names, hpos, ← writtenBy_succ]
  · refine holdsSymbols_congr (holdsSymbols_append h.holds _) fun j => ?_
    simp [codeBitOf_eq, h.written]
  · rw [← h.rest, hpos, hframe, frame_drop s hlt, List.append_assoc]
    simp [codeBitOf_eq, emitted]

/-- At the end of P1 `done` is the whole sequence of the pass. -/
theorem InPassOne.complete (h : InPassOne i E done s) (hend : s.pos = i.len.toNat) : afterP1 i done = E := by
  rw [← h.rest, hend, List.drop_eq_nil_of_le (by simp), emitted, List.append_nil]

/-- The end of P1 of a one-pass kind shows the outcome (R86). -/
theorem InPassOne.finish (h : InPassOne i E done s) (hend : s.pos = i.len.toNat) (hL : blockLength i.code = 0) :
    (endPassOf i s).inputs = s.inputs ∧ (endPassOf i s).nMax = s.nMax ∧ showsOutcome (endPassOf i s) E := by
  obtain ⟨w, hw, hlen⟩ := endPassOf_finishes (s := s) h.names hL (h.n ▸ h.short)
  have hE : E = .ok done := by rw [← h.complete hend, afterP1, if_pos hL]
  rw [hw, hE]
  refine ⟨rfl, rfl, showsOutcome_ok (by simp [h.status]) ?_ (holdsSymbols_congr h.holds fun _ => rfl)⟩
  rw [finishWith_olen, hlen, h.n, h.written, hend]

/-- The end of P1 of a kind with a substitution pass begins the scan of what P1 emitted (R86). -/
theorem InPassOne.enter (h : InPassOne i E done s) (hend : s.pos = i.len.toNat) (hL : blockLength i.code ≠ 0) :
    InPassTwo i E done (enterP2 s) := by
  have hlen : done.length = i.len.toNat := by rw [h.written, hend, writtenBy_of_block hL]
  refine ⟨⟨h.status, h.olen, h.opk, h.n, h.names, h.short, Nat.zero_le _⟩, rfl, hL, hlen,
    holdsSymbols_congr h.holds fun _ => rfl, ⟨Nat.pos_of_ne_zero hL, Nat.le_refl 0, ?_, ?_⟩, ?_⟩
  · intro j _ hj; exact absurd hj (Nat.not_lt_zero j)
  · intro hz; exact absurd hz (Nat.lt_irrefl 0)
  · have hrec : recordOf (enterP2 s).work = none := by simp [recordOf, h.record]
    rw [← h.complete hend, afterP1, if_neg hL, substitute, hlen, hrec]
    rfl

/-- In P1 the running command's event comes nearer to the outcome. -/
theorem InPassOne.advances (h : InPassOne i E done s) : ∃ t, exec i s = .next t ∧ Advances i E s t := by
  rw [exec_p1 h.names h.busy h.ph]
  rcases Nat.lt_or_ge s.pos i.len.toNat with hlt | hge
  · refine ⟨_, passOne_step (by rw [h.n]; exact hlt), by simp [codeBitOf_eq], by simp [codeBitOf_eq],
      .inr ⟨.inl ⟨_, h.step hlt⟩, ?_⟩⟩
    have h' := h.step hlt
    rw [stepsLeft_p1 h.ph, stepsLeft_p1 h'.ph, codeBitOf_advance_pos i hlt h.short, h.n, h'.n, h.opk, h'.opk]
    omega
  · have hend : s.pos = i.len.toNat := Nat.le_antisymm h.inRange hge
    refine ⟨_, passOne_end (by rw [h.n]; exact BitVec.eq_of_toNat_eq hend), ?_⟩
    by_cases hL : blockLength i.code = 0
    · obtain ⟨hin, hcap, hshow⟩ := h.finish hend hL
      exact ⟨hin, hcap, .inl hshow⟩
    · have h' := h.enter hend hL
      rw [endPassOf_enters hL]
      refine ⟨rfl, rfl, .inr ⟨.inr ⟨_, h'⟩, ?_⟩⟩
      rw [stepsLeft_p1 h.ph, stepsLeft_p2 h'.ph, h.n, h'.n, h.opk, if_neg hL]
      omega

end

/-! ### Pass P2 -/

theorem blockLength_le (opk : BitVec 4) : blockLength opk ≤ 8 := by
  unfold blockLength; split_ifs <;> omega

/-- Past a pulse no zeros stand before the next position. -/
theorem ZerosBefore.none {L : Nat} {q : List LineSymbol} {pos : Nat} (hL : L ≠ 0) (hv : symAt q pos ≠ .zero) :
    ZerosBefore L q (pos + 1) 0 where
  short := Nat.pos_of_ne_zero hL
  bound := Nat.zero_le _
  zeros j h1 h2 := by omega
  pulse _ := hv

/-- Past a zero that completes no block there is one zero more. -/
theorem ZerosBefore.succ {L : Nat} {q : List LineSymbol} {pos z : Nat} (h : ZerosBefore L q pos z)
    (hv : symAt q pos = .zero) (hz : z + 1 < L) : ZerosBefore L q (pos + 1) (z + 1) where
  short := hz
  bound := Nat.succ_le_succ h.bound
  zeros j h1 h2 := by
    rcases Nat.lt_or_ge j pos with hlt | hge
    · exact h.zeros j (by omega) hlt
    · rwa [show j = pos by omega]
  pulse h0 := by
    rw [Nat.add_sub_add_right] at h0 ⊢
    exact h.pulse h0

/-- A completed block is zeros, and follows a pulse unless it begins the sequence (R88). -/
theorem ZerosBefore.block {L : Nat} {q : List LineSymbol} {pos z : Nat} (h : ZerosBefore L q pos z)
    (hv : symAt q pos = .zero) (hz : L ≤ z + 1) :
    L ≤ pos + 1 ∧ (∀ k, k < L → symAt q (pos + 1 - L + k) = .zero) ∧
      (pos + 1 - L ≠ 0 → symAt q (pos + 1 - L - 1) ≠ .zero) := by
  obtain ⟨hshort, hbound, hzeros, hpulse⟩ := h
  have hs : pos + 1 - L = pos - z := by omega
  refine ⟨by omega, fun k hk => ?_, fun h0 => ?_⟩
  · rw [hs]
    rcases Nat.lt_or_ge (pos - z + k) pos with hlt | hge
    · exact hzeros _ (by omega) hlt
    · rwa [show pos - z + k = pos by omega]
  · rw [hs] at h0 ⊢
    exact hpulse (Nat.pos_of_ne_zero h0)

/-- Every pattern ends in a pulse. -/
theorem patternOf_last {i : Instr} (hL : blockLength i.code ≠ 0) (s0 : Nat) (r : Option Nat) {p : LineSymbol}
    (hp : p ≠ .zero) : symAt (patternOf i s0 r p) (blockLength i.code - 1) ≠ .zero := by
  cases i with
  | b8zs len => exact hp
  | hdb3 len =>
    change symAt (hdb3Pattern _ p) 3 ≠ .zero
    cases classify s0 r.isSome (r.getD 0) with
    | even => exact fun h => hp (LineSymbol.neg_eq_zero.1 h)
    | odd => exact hp
  | _ => exact absurd rfl hL

/-- The state after a replacement at `s0` has written `pat`: HDB3 also takes the record (R157). -/
def writeBlock (i : Instr) (s0 : Nat) (pat : List LineSymbol) (s : State) : State :=
  match i with
  | .hdb3 _ => (s.putSymbols s0 pat).setRecord s0 (classify s0 s.work.pvalid s.work.pstart.toNat)
  | _ => s.putSymbols s0 pat

section
variable (i : Instr) (s0 : Nat) (pat : List LineSymbol) (s : State)

@[simp] theorem writeBlock_status : (writeBlock i s0 pat s).status = s.status := by cases i <;> simp [writeBlock]
@[simp] theorem writeBlock_olen : (writeBlock i s0 pat s).olen = s.olen := by cases i <;> simp [writeBlock]
@[simp] theorem writeBlock_nMax : (writeBlock i s0 pat s).nMax = s.nMax := by cases i <;> simp [writeBlock]
@[simp] theorem writeBlock_inputs : (writeBlock i s0 pat s).inputs = s.inputs := by cases i <;> simp [writeBlock]
@[simp] theorem writeBlock_opk : (writeBlock i s0 pat s).work.opk = s.work.opk := by cases i <;> simp [writeBlock]
@[simp] theorem writeBlock_n : (writeBlock i s0 pat s).work.n = s.work.n := by cases i <;> simp [writeBlock]
@[simp] theorem writeBlock_ph : (writeBlock i s0 pat s).work.ph = s.work.ph := by cases i <;> simp [writeBlock]
@[simp] theorem writeBlock_idx : (writeBlock i s0 pat s).work.idx = s.work.idx := by cases i <;> simp [writeBlock]
@[simp] theorem writeBlock_zcnt : (writeBlock i s0 pat s).work.zcnt = s.work.zcnt := by cases i <;> simp [writeBlock]

@[simp] theorem writeBlock_pos : (writeBlock i s0 pat s).pos = s.pos := by simp [State.pos]

@[simp] theorem writeBlock_obufRead (j : Nat) :
    (writeBlock i s0 pat s).obufRead j = (s.putSymbols s0 pat).obufRead j := by
  cases i <;> simp [writeBlock]

/-- A start index is below 2^31, so PSTART holds it exactly. -/
theorem writeBlock_record (h : s0 ≤ 2147483647) :
    recordOf (writeBlock i s0 pat s).work = nextRecord i s0 (recordOf s.work) := by
  cases i with
  | hdb3 len =>
    have hlt : s0 < 4294967296 := by omega
    simp [writeBlock, recordOf, nextRecord, hlt]
  | _ => simp [writeBlock, recordOf, nextRecord]

end

/-- `encode` classifies a run by the record as the machine does by PVALID and PSTART. -/
theorem classify_recordOf (s0 : Nat) (w : Work) :
    classify s0 (recordOf w).isSome ((recordOf w).getD 0) = classify s0 w.pvalid w.pstart.toNat := by
  cases hv : w.pvalid <;> simp [recordOf, classify, hv]

theorem replaceOf_b8zs (len : Word) (s0 : Nat) (s : State) : replaceOf (.b8zs len) s0 s =
    replaceBlock 8 s0 (fun p t => t.putSymbols s0 (b8zsPattern p)) s := rfl

theorem replaceOf_hdb3 (len : Word) (s0 : Nat) (s : State) : replaceOf (.hdb3 len) s0 s =
    replaceBlock 4 s0 (fun p t => (t.putSymbols s0
      (hdb3Pattern (classify s0 s.work.pvalid s.work.pstart.toNat) p)).setRecord s0
        (classify s0 s.work.pvalid s.work.pstart.toNat)) s := rfl

/-- After a pulse and over zeros, a replacement writes the pattern that `encode` writes. -/
theorem replaceOf_writes {i : Instr} (hL : blockLength i.code ≠ 0) {s0 : Nat} {s : State} {p : LineSymbol}
    (h0 : s0 ≠ 0) (hz : ∀ k, k < blockLength i.code → s.obufRead (s0 + k) = 0b00#2) (hp : p ≠ .zero)
    (hr : s.obufRead (s0 - 1) = p.code) :
    replaceOf i s0 s = .wrote (writeBlock i s0 (patternOf i s0 (recordOf s.work) p) s) := by
  cases i with
  | b8zs len => rw [replaceOf_b8zs, replaceBlock_writes (L := 8) h0 hz hp hr]; rfl
  | hdb3 len => rw [replaceOf_hdb3, replaceBlock_writes (L := 4) h0 hz hp hr, patternOf, classify_recordOf]; rfl
  | _ => exact absurd rfl hL

/-- A block at index 0 raises NO_PRECEDING (R134, R154). -/
theorem replaceOf_first {i : Instr} (hL : blockLength i.code ≠ 0) (s : State) :
    replaceOf i 0 s = .raised .invalidInput .noPreceding := by
  cases i with
  | b8zs len => rw [replaceOf_b8zs, replaceBlock_first]
  | hdb3 len => rw [replaceOf_hdb3, replaceBlock_first]
  | _ => exact absurd rfl hL

section
variable {i : Instr} {E : Except OpFault (List LineSymbol)} {q : List LineSymbol} {s : State}

/-- The encoder sees a 0 exactly where the sequence has one. -/
theorem InPassTwo.read_eq_zero (h : InPassTwo i E q s) (hlt : s.pos < i.len.toNat) :
    s.obufRead s.pos = 0b00#2 ↔ symAt q s.pos = .zero := by
  rw [h.holds s.pos (by rwa [h.length]), LineSymbol.code_eq_zero]

/-- The state past a symbol that completes no block: it holds the same sequence. -/
theorem InPassTwo.past (h : InPassTwo i E q s) (hlt : s.pos < i.len.toNat) {z : BitVec 3}
    (hz : ZerosBefore (blockLength i.code) q (s.pos + 1) z.toNat)
    (hrest : substScan (blockLength i.code) (replaceFnOf i) (i.len.toNat - (s.pos + 1)) (s.pos + 1) z.toNat
      (recordOf s.work) q = E) : InPassTwo i E q (s.setZcnt z).advance := by
  have hpos : ((s.setZcnt z).advance).pos = s.pos + 1 := advance_pos (s := s.setZcnt z) hlt h.short
  exact ⟨⟨h.status, h.olen, h.opk, h.n, h.names, h.short, by rw [hpos]; exact hlt⟩, h.ph, h.kind, h.length,
    holdsSymbols_congr h.holds fun _ => rfl, by rw [hpos]; exact hz, by rw [hpos]; exact hrest⟩

/-- The state past a replaced block: it holds the sequence with the pattern in it. -/
theorem InPassTwo.replaced (h : InPassTwo i E q s) (hlt : s.pos < i.len.toNat) {s0 : Nat}
    (hs0 : s0 + blockLength i.code = s.pos + 1) {p : LineSymbol} (hp : p ≠ .zero)
    (hrest : substScan (blockLength i.code) (replaceFnOf i) (i.len.toNat - (s.pos + 1)) (s.pos + 1) 0
      (nextRecord i s0 (recordOf s.work)) (overwrite q s0 (patternOf i s0 (recordOf s.work) p)) = E) :
    InPassTwo i E (overwrite q s0 (patternOf i s0 (recordOf s.work) p))
      (writeBlock i s0 (patternOf i s0 (recordOf s.work) p) (s.setZcnt 0#3)).advance := by
  generalize hpat : patternOf i s0 (recordOf s.work) p = pat at hrest ⊢
  have hpatlen : pat.length = blockLength i.code := by rw [← hpat, patternOf_length h.kind]
  have hfit : s0 + pat.length ≤ q.length := by rw [hpatlen, h.length, hs0]; exact hlt
  have hpos : ((writeBlock i s0 pat (s.setZcnt 0#3)).advance).pos = s.pos + 1 := by
    rw [advance_pos (by simpa using hlt) h.short, writeBlock_pos, setZcnt_pos]
  have hrec : recordOf ((writeBlock i s0 pat (s.setZcnt 0#3)).advance).work = nextRecord i s0 (recordOf s.work) :=
    writeBlock_record i s0 pat (s.setZcnt 0#3) (by have := h.short; omega)
  have hlast : symAt (overwrite q s0 pat) s.pos ≠ .zero := by
    have hin : s0 ≤ s.pos ∧ s.pos < s0 + pat.length := by have := Nat.pos_of_ne_zero h.kind; omega
    rw [symAt_overwrite hfit, if_pos hin, ← hpat, show s.pos - s0 = blockLength i.code - 1 by omega]
    exact patternOf_last h.kind _ _ hp
  refine ⟨⟨?_, ?_, ?_, ?_, h.names, h.short, by rw [hpos]; exact hlt⟩, ?_, h.kind, ?_, ?_, ?_, ?_⟩
  · simpa using h.status
  · simpa using h.olen
  · simpa using h.opk
  · simpa using h.n
  · simpa using h.ph
  · rw [overwrite_length hfit, h.length]
  · have hq : holdsSymbols (s.setZcnt 0#3) q := holdsSymbols_congr h.holds fun _ => rfl
    exact holdsSymbols_congr (holdsSymbols_overwrite hq hfit) fun j => by simp
  · rw [hpos]; simpa using ZerosBefore.none h.kind hlast
  · rw [hpos, hrec]; simpa using hrest

/-- Where a block is completed, the P2 step replaces it as `encode` does, or raises the same fault (R87). -/
theorem InPassTwo.block_advances (h : InPassTwo i E q s) (hlt : s.pos < i.len.toNat)
    (hv : symAt q s.pos = .zero) (hz : blockLength i.code ≤ s.work.zcnt.toNat + 1) :
    ∃ t, scanStep (blockLength i.code) (replaceOf i) s = .next t ∧ t.inputs = s.inputs ∧ t.nMax = s.nMax ∧
      (showsOutcome t E ∨ ∃ q', InPassTwo i E q' t ∧ t.pos = s.pos + 1) := by
  obtain ⟨hfit, hzeros, hpulse⟩ := h.zeros.block hv hz
  have hread := (h.read_eq_zero hlt).2 hv
  have hrest := h.rest
  rw [show i.len.toNat - s.pos = i.len.toNat - (s.pos + 1) + 1 by omega, substScan, if_neg (not_not.2 hv),
    if_neg (Nat.not_lt.2 hz)] at hrest
  generalize hs0 : s.pos + 1 - blockLength i.code = s0 at hzeros hpulse hrest
  by_cases h0 : s0 = 0
  · subst h0
    have hE : E = .error (.invalidInput, .noPreceding) := by rw [← hrest]; rfl
    refine ⟨_, scanStep_raised hread hz (by rw [hs0]; exact replaceOf_first h.kind _), rfl, rfl, .inl ?_⟩
    rw [hE]
    exact ⟨rfl, h.olen⟩
  · have hblock : ∀ k, k < blockLength i.code → (s.setZcnt 0#3).obufRead (s0 + k) = 0b00#2 := fun k hk => by
      rw [setZcnt_obufRead, h.holds _ (by rw [h.length]; omega), hzeros k hk]; rfl
    have hprev : (s.setZcnt 0#3).obufRead (s0 - 1) = (symAt q (s0 - 1)).code :=
      h.holds _ (by rw [h.length]; omega)
    have hwrote := replaceOf_writes h.kind h0 hblock (hpulse h0) hprev
    rw [replaceFnOf, if_neg h0] at hrest
    have h' := h.replaced hlt (by omega) (hpulse h0) hrest
    refine ⟨_, scanStep_wrote hread hz (by rw [hs0]; exact hwrote), by simp, by simp, .inr ⟨_, h', ?_⟩⟩
    rw [advance_pos (by simpa using hlt) h.short, writeBlock_pos, setZcnt_pos]

/-- A P2 step goes on as the scan of `encode` does (R87). -/
theorem InPassTwo.scan_advances (h : InPassTwo i E q s) (hlt : s.pos < i.len.toNat) :
    ∃ t, scanStep (blockLength i.code) (replaceOf i) s = .next t ∧ t.inputs = s.inputs ∧ t.nMax = s.nMax ∧
      (showsOutcome t E ∨ ∃ q', InPassTwo i E q' t ∧ t.pos = s.pos + 1) := by
  have hpos : ∀ z, ((s.setZcnt z).advance).pos = s.pos + 1 := fun z =>
    advance_pos (s := s.setZcnt z) hlt h.short
  have hrest := h.rest
  rw [show i.len.toNat - s.pos = i.len.toNat - (s.pos + 1) + 1 by omega, substScan] at hrest
  by_cases hv : symAt q s.pos = .zero
  · rcases Nat.lt_or_ge (s.work.zcnt.toNat + 1) (blockLength i.code) with hz | hz
    · have hsucc : (s.work.zcnt + 1#3).toNat = s.work.zcnt.toNat + 1 := by
        have h8 := blockLength_le i.code
        rw [BitVec.toNat_add, show (1#3).toNat = 1 from rfl]
        omega
      rw [if_neg (not_not.2 hv), if_pos hz] at hrest
      exact ⟨_, scanStep_zero ((h.read_eq_zero hlt).2 hv) hz, rfl, rfl, .inr ⟨q,
        h.past hlt (by rw [hsucc]; exact h.zeros.succ hv hz) (by rw [hsucc]; exact hrest), hpos _⟩⟩
    · exact h.block_advances hlt hv hz
  · rw [if_pos hv] at hrest
    exact ⟨_, scanStep_pulse (fun hc => hv ((h.read_eq_zero hlt).1 hc)), rfl, rfl, .inr ⟨q,
      h.past hlt (.none h.kind hv) hrest, hpos _⟩⟩

/-- In P2 the running command's event comes nearer to the outcome. -/
theorem InPassTwo.advances (h : InPassTwo i E q s) : ∃ t, exec i s = .next t ∧ Advances i E s t := by
  rw [exec_p2 h.kind h.busy h.ph]
  rcases Nat.lt_or_ge s.pos i.len.toNat with hlt | hge
  · rw [passTwo_scan (by rw [h.n]; exact hlt)]
    obtain ⟨t, ht, hin, hcap, hgoal⟩ := h.scan_advances hlt
    refine ⟨t, ht, hin, hcap, hgoal.imp id ?_⟩
    rintro ⟨q', h', hpos⟩
    refine ⟨.inr ⟨q', h'⟩, ?_⟩
    rw [stepsLeft_p2 h.ph, stepsLeft_p2 h'.ph, hpos, h.n, h'.n]
    omega
  · have hend : s.pos = i.len.toNat := Nat.le_antisymm h.inRange hge
    have hE : E = .ok q := by rw [← h.rest, hend, Nat.sub_self]; rfl
    refine ⟨_, passTwo_end (by rw [h.n]; exact BitVec.eq_of_toNat_eq hend), rfl, rfl, .inl ?_⟩
    rw [hE]
    refine showsOutcome_ok (by simp [h.status]) ?_ (holdsSymbols_congr h.holds fun _ => rfl)
    rw [finishWith_olen, h.n, h.length]

/-- The event of a running command comes nearer to the outcome. -/
theorem Computing.advances (h : Computing i E s) : ∃ t, exec i s = .next t ∧ Advances i E s t := by
  rcases h with ⟨done, h⟩ | ⟨q, h⟩
  · exact h.advances
  · exact h.advances

end

end Sys2Proof.Machine

/-! ## From START to the end of the operation (R95, R97) -/

namespace Sys2Proof.Machine

/-! ### Runs of the machine -/

theorem coreRun_succ (M : Host.Core) {s u : M.State} (h : M.step s = .next u) (k : Nat) :
    M.run (k + 1) s = M.run k u := by
  rw [Host.Core.run, h]

theorem run_succ {s u : State} (h : step s = .next u) (k : Nat) :
    Host.Core.run Sys2Proof.core (k + 1) s = Host.Core.run Sys2Proof.core k u :=
  coreRun_succ Sys2Proof.core h k

theorem endsAt_one {s t : State} (h : step s = .next t) (hb : t.busy = false) : endsAt s 1 t :=
  ⟨Nat.one_pos, run_succ h 0, hb, fun j h0 h1 => by omega⟩

theorem endsAt_succ {s u t : State} {k : Nat} (h : step s = .next u) (hb : u.busy = true) (hu : endsAt u k t) :
    endsAt s (k + 1) t := by
  obtain ⟨-, hrun, ht, hbusy⟩ := hu
  refine ⟨Nat.succ_pos k, (run_succ h k).trans hrun, ht, fun j h0 hj => ?_⟩
  obtain ⟨j, rfl⟩ := Nat.exists_eq_succ_of_ne_zero (Nat.ne_of_gt h0)
  rcases Nat.eq_zero_or_pos j with rfl | hpos
  · exact ⟨u, run_succ h 0, hb⟩
  · obtain ⟨v, hv, hvb⟩ := hbusy j hpos (by omega)
    exact ⟨v, (run_succ h j).trans hv, hvb⟩

/-- A run leaves BUSY at one place only. -/
theorem endsAt_unique {s t t' : State} {k k' : Nat} (h : endsAt s k t) (h' : endsAt s k' t') : t = t' := by
  obtain ⟨h0, hrun, hb, hbusy⟩ := h
  obtain ⟨h0', hrun', hb', hbusy'⟩ := h'
  have hnot : ∀ {j : Nat} {v : State}, Host.Core.run Sys2Proof.core j s = .next v → v.busy = false →
      ¬ ∃ u, Host.Core.run Sys2Proof.core j s = .next u ∧ u.busy = true := by
    rintro j v hv hvb ⟨u, hu, hub⟩
    cases hv.symm.trans hu
    simp [hub] at hvb
  rcases Nat.lt_trichotomy k k' with hlt | rfl | hlt
  · exact absurd (hbusy' k h0 hlt) (hnot hrun hb)
  · cases hrun.symm.trans hrun'; rfl
  · exact absurd (hbusy k' h0' hlt) (hnot hrun' hb')

/-! ### A running operation among quiet host accesses -/

/-- Command `i` runs towards `E`, and what the host still does is quiet. -/
structure RunsQuietly (i : Instr) (E : Except OpFault (List LineSymbol)) (s : State) : Prop where
  computing : Computing i E s
  quiet : ∀ e ∈ s.inputs, quietInput s.nMax e = true

/-- How many steps of the machine are left at most: one for each entry of the interleaving, and the encoder's. -/
def remaining (s : State) : Nat := s.inputs.length + stepsLeft s

section
variable {i : Instr} {E : Except OpFault (List LineSymbol)} {s : State}

/-- The host's own lists are no part of the simulation. -/
theorem Computing.of_host (h : Computing i E s) (r : List Input) (p : List Reply) (d : Nat) :
    Computing i E { s with inputs := r, replies := p, draws := d } := by
  rcases h with ⟨done, h⟩ | ⟨q, h⟩
  · exact .inl ⟨done, ⟨h.status, h.olen, h.opk, h.n, h.names, h.short, h.inRange⟩, h.ph, h.record, h.written,
      h.holds, h.rest⟩
  · exact .inr ⟨q, ⟨h.status, h.olen, h.opk, h.n, h.names, h.short, h.inRange⟩, h.ph, h.kind, h.length, h.holds,
      h.zeros, h.rest⟩

theorem Computing.inOperation (h : Computing i E s) : InOperation i s := by
  rcases h with ⟨done, h⟩ | ⟨q, h⟩
  · exact h.toInOperation
  · exact h.toInOperation

/-- The encoder's turn comes nearer to the outcome. -/
theorem RunsQuietly.turn (h : RunsQuietly i E s) :
    ∃ t, exec i { s with inputs := s.inputs.tail } = .next t ∧
      (showsOutcome t E ∨ (RunsQuietly i E t ∧ remaining t < remaining s)) := by
  have hs : Computing i E { s with inputs := s.inputs.tail } := h.computing.of_host _ s.replies s.draws
  obtain ⟨t, ht, hin, hcap, hgoal⟩ := hs.advances
  refine ⟨t, ht, hgoal.imp id fun ⟨hc, hlt⟩ => ⟨⟨hc, fun e he => ?_⟩, ?_⟩⟩
  · rw [hcap]
    rw [hin] at he
    exact h.quiet e (List.mem_of_mem_tail he)
  · have hlen : t.inputs.length ≤ s.inputs.length := by
      rw [hin]
      exact List.length_tail ▸ Nat.sub_le _ _
    exact Nat.add_lt_add_of_le_of_lt hlen hlt

/-- A quiet access leaves the operation where it is, and one entry less. -/
theorem RunsQuietly.access (h : RunsQuietly i E s) {a : HostAccess} {rest : List Input}
    (hi : s.inputs = .access a :: rest) :
    ∃ t, serveAccess a { s with inputs := rest } = .next t ∧ RunsQuietly i E t ∧ remaining t < remaining s := by
  have hq : ∀ e ∈ Input.access a :: rest, quietInput s.nMax e = true := hi ▸ h.quiet
  obtain ⟨hreset, t, ht⟩ := serveAccess_quiet (s := { s with inputs := rest }) (hq _ List.mem_cons_self)
  obtain ⟨p, d, rfl⟩ := serveAccess_busy (s := { s with inputs := rest }) h.computing.inOperation.busy hreset ht
  refine ⟨_, ht, ⟨h.computing.of_host rest p d, fun e he => hq e (List.mem_cons_of_mem _ he)⟩, ?_⟩
  have hlen : rest.length < s.inputs.length := by rw [hi]; exact Nat.lt_succ_self _
  exact Nat.add_lt_add_right hlen _

/-- Each step of the machine shows the outcome, or leaves fewer steps to do. -/
theorem RunsQuietly.step (h : RunsQuietly i E s) :
    ∃ t, step s = .next t ∧ (showsOutcome t E ∨ (RunsQuietly i E t ∧ remaining t < remaining s)) := by
  have hop := h.computing.inOperation
  rcases step_busy_cases hop.busy with hs | ⟨a, rest, hi, hs⟩
  · rw [hs, hop.running]; exact h.turn
  · obtain ⟨t, ht, hgoal⟩ := h.access hi
    exact ⟨t, hs.trans ht, .inr hgoal⟩

/-- A running operation ends within the steps that are left, and shows its outcome. -/
theorem RunsQuietly.ends (h : RunsQuietly i E s) :
    ∃ k t, endsAt s k t ∧ k ≤ remaining s ∧ showsOutcome t E := by
  induction hm : remaining s using Nat.strong_induction_on generalizing s with
  | _ m ih =>
    subst hm
    obtain ⟨u, hu, hshow | ⟨hruns, hlt⟩⟩ := h.step
    · have hpos : 1 ≤ remaining s := by
        have : 1 ≤ stepsLeft s := by
          unfold stepsLeft
          split <;> omega
        unfold remaining
        omega
      exact ⟨1, u, endsAt_one hu (showsOutcome_not_busy hshow), hpos, hshow⟩
    · obtain ⟨k, t, hend, hk, hshow⟩ := ih _ hlt hruns rfl
      exact ⟨k + 1, t, endsAt_succ hu hruns.computing.inOperation.busy hend, by omega, hshow⟩

end

/-! ### START -/

/-- An accepted START that passes the checks begins the simulation, with nothing emitted yet (R84). -/
theorem startCommand_computing {i : Instr} {s : State} (hc : startCheck s.nMax i = none) (hcap : s.nMax ≤ 2147483647) :
    Computing i (encodeBits i.code (s.frame i.len.toNat)) (startCommand i s) := by
  obtain ⟨hk, hfits⟩ := startCheck_none hc
  have hn : namesOperation i = true := (namesOperation_iff i).2 hk
  rw [startCommand_begins hc, encodeBits_eq hn]
  exact .inl ⟨[], ⟨rfl, rfl, rfl, rfl, hn, le_trans hfits hcap, Nat.zero_le _⟩, rfl, rfl,
    (writtenBy_zero i.code).symm, fun j hj => absurd hj (Nat.not_lt_zero j), rfl⟩

/-- Right after START the whole bound of R91 is left. -/
theorem startCommand_stepsLeft {i : Instr} {s : State} (hc : startCheck s.nMax i = none) :
    stepsLeft (startCommand i s) = stepBound i.code i.len.toNat := by
  rw [startCommand_begins hc, stepsLeft_p1 rfl]
  obtain ⟨hk, -⟩ := startCheck_none hc
  change i.len.toNat - 0 + 1 + (if blockLength i.code = 0 then 0 else i.len.toNat + 1) = _
  by_cases h78 : i.code = 7#4 ∨ i.code = 8#4
  · have hL : blockLength i.code ≠ 0 := by rcases h78 with h | h <;> rw [h] <;> decide
    rw [stepBound, if_pos h78, if_neg hL]
    omega
  · have hL : blockLength i.code = 0 := by
      obtain ⟨h7, h8⟩ := not_or.1 h78
      rw [blockLength, if_neg h7, if_neg h8]
    rw [stepBound, if_neg h78, if_pos hL]
    omega

/-- The START of the command in KIND and LEN shows the fault of its checks at once, or begins a run that has the bound
of R91 before it. -/
theorem startCommand_simulates {s : State} (hcap : s.nMax ≤ 2147483647)
    (hquiet : ∀ e ∈ s.inputs, quietInput s.nMax e = true) :
    showsOutcome (startCommand s.command s) (encodeFrame s.nMax s.kind (s.frame s.len.toNat)) ∨
    (RunsQuietly s.command (encodeFrame s.nMax s.kind (s.frame s.len.toNat)) (startCommand s.command s) ∧
      remaining (startCommand s.command s) = s.inputs.length + stepBound s.kind s.len.toNat) := by
  rw [encodeFrame, frame_length, encodeCheck_eq, ← State.command]
  cases hc : startCheck s.nMax s.command with
  | some f =>
    rw [startCommand_raises hc]
    exact .inl ⟨rfl, rfl⟩
  | none =>
    have hlen : s.command.len = s.len := command_len (command_code s ▸ (startCheck_none hc).1)
    have hcomp := startCommand_computing hc hcap
    have hleft := startCommand_stepsLeft hc
    rw [command_code, hlen] at hcomp hleft
    have hside : (startCommand s.command s).inputs = s.inputs ∧ (startCommand s.command s).nMax = s.nMax := by
      rw [startCommand_begins hc]; exact ⟨rfl, rfl⟩
    obtain ⟨hin, hmax⟩ := hside
    exact .inr ⟨⟨hcomp, by rwa [hin, hmax]⟩, by rw [remaining, hleft, hin]⟩

/-- Settles O9: what START leaves shows the outcome, or is a run that `RunsQuietly.ends` brings to it. -/
theorem operationComputesEncode : Obligations.OperationComputesEncode := by
  intro s rest hb hs hcap hquiet
  have hstep := step_start hs hb
  rcases startCommand_simulates (s := { s with inputs := rest }) hcap hquiet with hshow | ⟨hruns, hleft⟩
  · exact ⟨1, _, endsAt_one hstep (showsOutcome_not_busy hshow), by omega, hshow⟩
  · obtain ⟨k, t, hend, hk, hshow⟩ := hruns.ends
    have hbound : k ≤ rest.length + stepBound s.kind s.len.toNat := hk.trans_eq hleft
    exact ⟨k + 1, t, endsAt_succ hstep hruns.computing.inOperation.busy hend, by omega, hshow⟩

/-- What is shown of an outcome is the same wherever it is shown. -/
theorem showsOutcome_unique {t₁ t₂ : State} {E : Except OpFault (List LineSymbol)} (h₁ : showsOutcome t₁ E)
    (h₂ : showsOutcome t₂ E) : t₁.status = t₂.status ∧ t₁.olen = t₂.olen ∧ t₁.result = t₂.result := by
  cases E with
  | ok q =>
    obtain ⟨hst₁, hlen₁, hres₁⟩ := h₁
    obtain ⟨hst₂, hlen₂, hres₂⟩ := h₂
    exact ⟨hst₁.trans hst₂.symm, BitVec.eq_of_toNat_eq (hlen₁.trans hlen₂.symm), hres₁.trans hres₂.symm⟩
  | error f =>
    obtain ⟨hst₁, hlen₁⟩ := h₁
    obtain ⟨hst₂, hlen₂⟩ := h₂
    exact ⟨hst₁.trans hst₂.symm, hlen₁.trans hlen₂.symm, by simp [State.result, hlen₁, hlen₂]⟩

/-- Settles O10: by O9 both operations show `encode` of the same kind and frame. -/
theorem operationsAreRepeatable : Obligations.OperationsAreRepeatable := by
  intro s₁ s₂ t₁ t₂ r₁ r₂ k₁ k₂ hb₁ hb₂ hs₁ hs₂ hn hcap hq₁ hq₂ hkind hlen hframe hend₁ hend₂
  obtain ⟨_, u₁, hu₁, -, hshow₁⟩ := operationComputesEncode s₁ r₁ hb₁ hs₁ hcap hq₁
  obtain ⟨_, u₂, hu₂, -, hshow₂⟩ := operationComputesEncode s₂ r₂ hb₂ hs₂ (hn ▸ hcap) hq₂
  rw [← hn, ← hkind, ← hframe] at hshow₂
  rw [endsAt_unique hend₁ hu₁, endsAt_unique hend₂ hu₂]
  exact showsOutcome_unique hshow₁ hshow₂

end Sys2Proof.Machine

/-! ## The transitions of NRZI (R102 to R104)

The level before a position is LVL, and 0 before position 0, where R102 takes the bit itself: under that reference
level the rule for position 0 is the rule for every other position, so one induction covers both. -/

namespace Sys2Proof.Machine

/-- A sequence that passes the checks of `encodeFrame` is that of `encodeBits` (R95). -/
theorem encodeFrame_ok {cap : Nat} {k : BitVec 4} {bits : List Bit} {q : List LineSymbol}
    (h : encodeFrame cap k bits = .ok q) : encodeBits k bits = .ok q := by
  unfold encodeFrame at h
  split at h
  · cases h
  · exact h

/-- The symbols of a sequence behind a reference symbol. -/
theorem symAt_cons (v : LineSymbol) (q : List LineSymbol) (i : Nat) :
    symAt (v :: q) i = if i = 0 then v else symAt q (i - 1) := by
  cases i <;> rfl

theorem nrziSym_binary (level : Bit) : nrziSym level = .zero ∨ nrziSym level = .plus := by
  unfold nrziSym
  split_ifs
  · exact .inr rfl
  · exact .inl rfl

theorem nrziSym_injective : Function.Injective nrziSym := by
  unfold Function.Injective
  decide

/-- A bit 1 is a change of level: with level 0 before it at position 0, and at any other position (R102). -/
theorem nrziLevel_ne_iff {pos : Nat} {lvl : Bit} (href : pos = 0 → lvl = 0#1) (b : Bit) :
    nrziLevel pos b lvl ≠ lvl ↔ b = 1#1 := by
  by_cases hpos : pos = 0
  · rw [nrziLevel, if_pos hpos, href hpos]
    revert b; decide
  · rw [nrziLevel, if_neg hpos]
    clear href
    revert b lvl; decide

/-- NRZI's alphabet is binary (R103). -/
theorem nrziSeq_binary {pos : Nat} {lvl : Bit} {bits : List Bit} {v : LineSymbol} (hv : v ∈ nrziSeq pos lvl bits) :
    v = .zero ∨ v = .plus := by
  induction bits generalizing pos lvl with
  | nil => cases hv
  | cons b rest ih =>
    rcases List.mem_cons.1 hv with rfl | hrest
    · exact nrziSym_binary _
    · exact ih hrest

/-- The bits 1 stand exactly where the sequence changes, seen behind the symbol of the level before it (R104). -/
theorem nrziSeq_transition {pos : Nat} {lvl : Bit} (href : pos = 0 → lvl = 0#1) {bits : List Bit} {i : Nat}
    (hi : i < bits.length) :
    bits.getD i 0#1 = 1#1 ↔
      symAt (nrziSeq pos lvl bits) i ≠ symAt (nrziSym lvl :: nrziSeq pos lvl bits) i := by
  induction bits generalizing pos lvl i with
  | nil => cases hi
  | cons b rest ih =>
    cases i with
    | zero =>
      change b = 1#1 ↔ nrziSym (nrziLevel pos b lvl) ≠ nrziSym lvl
      rw [nrziSym_injective.ne_iff, nrziLevel_ne_iff href]
    | succ i => exact ih (fun h => absurd h (Nat.succ_ne_zero pos)) (Nat.lt_of_succ_lt_succ hi)

/-- Settles O44: `encode` of NRZI is the fold of its levels from level 0, whose symbol is 0. -/
theorem nrziRoundTrip : Obligations.NrziRoundTrip := by
  intro cap bits q h
  have hlen : q.length = bits.length := encodeFrame_length h
  obtain rfl : nrziSeq 0 0#1 bits = q := Except.ok.inj (encodeFrame_ok h)
  refine ⟨fun v hv => nrziSeq_binary hv, hlen, fun i hi => ?_⟩
  rw [nrziSeq_transition (fun _ => rfl) hi, symAt_cons]
  rfl

end Sys2Proof.Machine

/-! ## The cycles of the Manchester family (R120 to R123)

Both kinds emit, for each bit, a nonzero symbol and its negation, so one induction over the bits covers both. The
cycle-start rule of Differential Manchester compares a cycle with the level before it, which is LVL: seen behind the
symbol of that level, the rule holds for cycle 0 as well, and the induction needs no case of its own for it. -/

namespace Sys2Proof.Machine

/-- Opposite levels are opposite pulses. -/
theorem lvl2sym_not1 (lvl : Bit) : lvl2sym (not1 lvl) = (lvl2sym lvl).neg := by revert lvl; decide

theorem lvl2sym_ne_zero (lvl : Bit) : lvl2sym lvl ≠ .zero := by revert lvl; decide

theorem lvl2sym_injective : Function.Injective lvl2sym := by
  unfold Function.Injective
  decide

theorem man_opposite (b : Bit) : (man b).1 ≠ .zero ∧ (man b).2 = (man b).1.neg := by revert b; decide

theorem dman_opposite (b lvl : Bit) : (dman b lvl).1.1 ≠ .zero ∧ (dman b lvl).1.2 = (dman b lvl).1.1.neg :=
  ⟨lvl2sym_ne_zero (dmanFirst b lvl), lvl2sym_not1 (dmanFirst b lvl)⟩

theorem dmanFirst_eq_iff (b lvl : Bit) : dmanFirst b lvl = lvl ↔ b = 0#1 := by revert b lvl; decide

/-- A bit of either Manchester kind emits a pulse and the opposite pulse (R120, R121). -/
theorem emit_cycle {i : Instr} (hi : i.code ∈ [5#4, 6#4]) (pos : Nat) (pol lvl b : Bit) :
    ∃ v, v ≠ .zero ∧ (emit i pos pol lvl b).1 = [v, v.neg] := by
  cases i with
  | man len =>
    obtain ⟨hne, hneg⟩ := man_opposite b
    exact ⟨(man b).1, hne, by rw [← hneg]; rfl⟩
  | dman len =>
    obtain ⟨hne, hneg⟩ := dman_opposite b lvl
    exact ⟨(dman b lvl).1.1, hne, by rw [← hneg]; rfl⟩
  | _ => simp [Instr.code] at hi

/-- No symbol of either Manchester kind is 0 (R123). -/
theorem emitted_cycles_nonzero {i : Instr} (hi : i.code ∈ [5#4, 6#4]) (pos : Nat) (pol lvl : Bit) (bits : List Bit) :
    .zero ∉ emitted i pos pol lvl bits := by
  induction bits generalizing pos pol lvl with
  | nil => simp [emitted]
  | cons b rest ih =>
    obtain ⟨v, hv, hcycle⟩ := emit_cycle hi pos pol lvl b
    have hneg : v.neg ≠ .zero := fun h => hv (LineSymbol.neg_eq_zero.1 h)
    simp [emitted, hcycle, hv.symm, hneg.symm, ih]

/-- The two symbols of every cycle are opposite pulses, whichever of the two kinds emits it (R123). -/
theorem emitted_midCycle {i : Instr} (hi : i.code ∈ [5#4, 6#4]) (pos : Nat) (pol lvl : Bit) {bits : List Bit} {c : Nat}
    (hc : c < bits.length) :
    symAt (emitted i pos pol lvl bits) (2 * c + 1) = (symAt (emitted i pos pol lvl bits) (2 * c)).neg ∧
      symAt (emitted i pos pol lvl bits) (2 * c) ≠ .zero := by
  induction bits generalizing pos pol lvl c with
  | nil => cases hc
  | cons b rest ih =>
    obtain ⟨v, hv, hcycle⟩ := emit_cycle hi pos pol lvl b
    rw [emitted, hcycle]
    cases c with
    | zero => exact ⟨rfl, hv⟩
    | succ c => exact ih _ _ _ (Nat.lt_of_succ_lt_succ hc)

/-- A cycle starts with the symbol before it exactly when its bit is 0, cycle 0 being seen behind the symbol of the
level before it (R121, R123). -/
theorem dmanSeq_cycleStart {lvl : Bit} {bits : List Bit} {c : Nat} (hc : c < bits.length) :
    symAt (lvl2sym lvl :: dmanSeq lvl bits) (2 * c + 1) = symAt (lvl2sym lvl :: dmanSeq lvl bits) (2 * c) ↔
      bits.getD c 0#1 = 0#1 := by
  induction bits generalizing lvl c with
  | nil => cases hc
  | cons b rest ih =>
    cases c with
    | zero => exact lvl2sym_injective.eq_iff.trans (dmanFirst_eq_iff b lvl)
    | succ c => exact ih (Nat.lt_of_succ_lt_succ hc)

/-- `encode` of a Manchester kind is what its pass P1 emits (R95). -/
theorem encodeFrame_manchester {cap : Nat} {k : BitVec 4} (hk : k ∈ [5#4, 6#4]) {bits : List Bit} {q : List LineSymbol}
    (h : encodeFrame cap k bits = .ok q) : ∃ i : Instr, i.code = k ∧ emitted i 0 0#1 0#1 bits = q := by
  have hq := encodeFrame_ok h
  simp only [List.mem_cons, List.not_mem_nil, or_false] at hk
  rcases hk with rfl | rfl
  · exact ⟨.man 0#32, rfl, (emitted_man ..).trans (Except.ok.inj hq)⟩
  · exact ⟨.dman 0#32, rfl, (emitted_dman ..).trans (Except.ok.inj hq)⟩

/-- Settles O47: both kinds emit opposite pulses, and the start of a DMAN cycle c >= 1 is `dmanSeq_cycleStart` with
the reference symbol taken off. -/
theorem manchesterMidCycleTransition : Obligations.ManchesterMidCycleTransition := by
  intro cap bits q
  refine ⟨fun k hk h => ?_, fun h c hc1 hc => ?_⟩
  · obtain ⟨i, rfl, rfl⟩ := encodeFrame_manchester hk h
    exact ⟨emitted_cycles_nonzero hk 0 0#1 0#1 bits, fun c hc => emitted_midCycle hk 0 0#1 0#1 hc⟩
  · obtain rfl : dmanSeq 0#1 bits = q := Except.ok.inj (encodeFrame_ok h)
    have hstart := dmanSeq_cycleStart (lvl := 0#1) hc
    rwa [symAt_cons, symAt_cons, if_neg (by omega), if_neg (by omega), Nat.add_sub_cancel] at hstart

end Sys2Proof.Machine

/-! ## The replaced block (R87, R133, R136)

For both substituting kinds: which state the P2 step leaves that completes a block after a pulse, and how that state
differs from the one before it. B8ZS needs then only its two patterns. -/

namespace Sys2Proof.Machine

/-- The state past a block at `s0` that the P2 step has replaced by `pat` (R87). -/
def afterBlock (i : Instr) (s0 : Nat) (pat : List LineSymbol) (s : State) : State :=
  (writeBlock i s0 pat (s.setZcnt 0#3)).advance

/-- Where a block after a pulse is completed, the P2 step writes the kind's pattern over it. -/
theorem exec_blockEnd {i : Instr} (hL : blockLength i.code ≠ 0) {s0 : Nat} {s : State} {p : LineSymbol}
    (hs : atBlockEnd (blockLength i.code) s0 s) (h0 : s0 ≠ 0) (hp : p ≠ .zero) (hr : s.obufRead (s0 - 1) = p.code) :
    exec i s = .next (afterBlock i s0 (patternOf i s0 (recordOf s.work) p) s) := by
  obtain ⟨⟨hb, hph, hlt⟩, hz, hpos, hzeros⟩ := hs
  have hstart : s.pos + 1 - blockLength i.code = s0 := by omega
  have hlast : s.obufRead s.pos = 0b00#2 := by
    have hread := hzeros (blockLength i.code - 1) (by omega)
    rwa [show s0 + (blockLength i.code - 1) = s.pos by omega] at hread
  have hwrote := replaceOf_writes hL (s := s.setZcnt 0#3) h0 hzeros hp hr
  rw [exec_p2 hL hb hph, passTwo_scan hlt, scanStep_wrote hlast hz.ge (by rw [hstart]; exact hwrote)]
  rfl

section
variable (i : Instr) (s0 : Nat) (pat : List LineSymbol) (s : State)

theorem afterBlock_obufRead (j : Nat) :
    (afterBlock i s0 pat s).obufRead j =
      if s0 ≤ j ∧ j < s0 + pat.length then (pat.getD (j - s0) .zero).code else s.obufRead j := by
  rw [afterBlock, advance_obufRead, writeBlock_obufRead, putSymbols_obufRead, setZcnt_obufRead]

/-- The pattern stands where the block was. -/
theorem afterBlock_codesAt : codesAt (afterBlock i s0 pat s) s0 pat.length = pat.map LineSymbol.code := by
  refine List.ext_getElem (by simp [codesAt]) fun k hk _ => ?_
  have hk' : k < pat.length := by simpa [codesAt] using hk
  simp [codesAt, afterBlock_obufRead, hk']

theorem afterBlock_sameOutside : obufSameOutside s (afterBlock i s0 pat s) s0 pat.length := fun j hj => by
  rw [afterBlock_obufRead, if_neg (by omega)]

/-- A replacement writes OBUF and the record, nothing of the host's side. -/
theorem writeBlock_sameHostSide : SameHostSide s (writeBlock i s0 pat s) := by
  cases i <;> constructor <;> simp [writeBlock]

/-- The step's working registers are those of the replacement, with IDX advanced. -/
theorem afterBlock_stepFrame : StepFrame s (afterBlock i s0 pat s)
    { (writeBlock i s0 pat (s.setZcnt 0#3)).work with idx := s.work.idx + 1#32 } := by
  obtain ⟨hkind, hlen, hibuf, hcap, hin, hrep, hdraws, hresets⟩ := writeBlock_sameHostSide i s0 pat (s.setZcnt 0#3)
  exact ⟨⟨hkind, hlen, hibuf, hcap, hin, hrep, hdraws, hresets⟩, by simp [afterBlock], by simp [afterBlock],
    by simp [afterBlock]⟩

end

/-- +1 and -1 are the codes of the pulses. -/
theorem exists_pulse_of_code {c : SymCode} (h : c = 0b01#2 ∨ c = 0b11#2) :
    ∃ p : LineSymbol, p ≠ .zero ∧ c = p.code := by
  rcases h with rfl | rfl
  · exact ⟨.plus, by decide, rfl⟩
  · exact ⟨.minus, by decide, rfl⟩

/-- The codes of TOP, after +1, and of BOTTOM, after -1 (R136). -/
theorem b8zsPattern_codes {p : LineSymbol} (hp : p ≠ .zero) :
    (b8zsPattern p).map LineSymbol.code = if p.code = 0b01#2
      then [0b00#2, 0b00#2, 0b00#2, 0b01#2, 0b11#2, 0b00#2, 0b11#2, 0b01#2]
      else [0b00#2, 0b00#2, 0b00#2, 0b11#2, 0b01#2, 0b00#2, 0b01#2, 0b11#2] := by
  cases p with
  | zero => exact absurd rfl hp
  | plus => rfl
  | minus => rfl

/-- A B8ZS replacement writes no working register: HDB3 alone keeps a record (R157). -/
theorem writeBlock_b8zs_work (len : Word) (s0 : Nat) (pat : List LineSymbol) (s : State) :
    (writeBlock (.b8zs len) s0 pat s).work = s.work := putSymbols_work s s0 pat

/-- Settles O27: the step leaves `afterBlock` with `b8zsPattern` of the preceding pulse. -/
theorem b8zsReplacesBlock : Obligations.B8zsReplacesBlock := by
  intro len s s0 hs h0 hprev
  obtain ⟨p, hp, hr⟩ := exists_pulse_of_code hprev
  have hstep : exec (.b8zs len) s = .next (afterBlock (.b8zs len) s0 (b8zsPattern p) s) :=
    exec_blockEnd (i := .b8zs len) (by simp [blockLength_code]) hs h0.ne' hp hr
  have hframe := afterBlock_stepFrame (.b8zs len) s0 (b8zsPattern p) s
  rw [writeBlock_b8zs_work, setZcnt_work] at hframe
  refine ⟨_, hstep, hframe, ?_, afterBlock_sameOutside _ s0 (b8zsPattern p) s⟩
  rw [hr, ← b8zsPattern_codes hp]
  exact afterBlock_codesAt _ s0 (b8zsPattern p) s

end Sys2Proof.Machine

/-! ## The replaced run of HDB3 (R153, R156, R157)

On top of the replaced block: the class of the run by its own index or by the gap, the two patterns, and the record. -/

namespace Sys2Proof.Machine

/-- The first run is classified by its own index (R153). -/
theorem classify_first_eq_odd (s0 pstart : Nat) : classify s0 false pstart = .odd ↔ s0 % 2 = 1 :=
  parityOf_nat_eq_odd s0

/-- A later run is classified by the gap to the recorded one (R153). -/
theorem classify_later_eq_odd (s0 pstart : Nat) :
    classify s0 true pstart = .odd ↔ ((s0 : Int) - ((pstart : Int) + 3) - 1) % 2 = 1 :=
  parityOf_eq_odd (hdb3Gap s0 pstart)

/-- The codes of B00V: two pulses opposite to the preceding one (R156). -/
theorem hdb3Pattern_even_codes {p : LineSymbol} (hp : p ≠ .zero) :
    (hdb3Pattern .even p).map LineSymbol.code =
      if p.code = 0b11#2 then [0b01#2, 0b00#2, 0b00#2, 0b01#2] else [0b11#2, 0b00#2, 0b00#2, 0b11#2] := by
  cases p with
  | zero => exact absurd rfl hp
  | plus | minus => rfl

/-- The codes of 000V: the violation repeats the preceding pulse (R156). -/
theorem hdb3Pattern_odd_codes {p : LineSymbol} (hp : p ≠ .zero) :
    (hdb3Pattern .odd p).map LineSymbol.code =
      if p.code = 0b11#2 then [0b00#2, 0b00#2, 0b00#2, 0b11#2] else [0b00#2, 0b00#2, 0b00#2, 0b01#2] := by
  cases p with
  | zero => exact absurd rfl hp
  | plus | minus => rfl

/-- The only working registers that an HDB3 replacement writes are the record (R157). -/
theorem writeBlock_hdb3_work (len : Word) (s0 : Nat) (pat : List LineSymbol) (s : State) :
    (writeBlock (.hdb3 len) s0 pat s).work = { s.work with
      pvalid := true, pstart := BitVec.ofNat 32 s0, pclass := classify s0 s.work.pvalid s.work.pstart.toNat } := by
  simp [writeBlock, State.setRecord]

/-- HDB3's pattern is that of the run's class, by the machine's own record. -/
theorem patternOf_hdb3 (len : Word) (s0 : Nat) (w : Work) (p : LineSymbol) :
    patternOf (.hdb3 len) s0 (recordOf w) p = hdb3Pattern (classify s0 w.pvalid w.pstart.toNat) p := by
  rw [patternOf, classify_recordOf]

/-- Settles O28: the step leaves `afterBlock` with `hdb3Pattern` of the run's class and the preceding pulse. -/
theorem hdb3ReplacesRun : Obligations.Hdb3ReplacesRun := by
  intro len s s0 hs h0 hprev
  obtain ⟨p, hp, hr⟩ := exists_pulse_of_code hprev
  have hstep := exec_blockEnd (i := .hdb3 len) (by simp [blockLength_code]) hs h0.ne' hp hr
  have hframe := afterBlock_stepFrame (.hdb3 len) s0
    (hdb3Pattern (classify s0 s.work.pvalid s.work.pstart.toNat) p) s
  rw [patternOf_hdb3] at hstep
  rw [writeBlock_hdb3_work, setZcnt_work] at hframe
  obtain ⟨cls, hcls⟩ : ∃ cls, classify s0 s.work.pvalid s.work.pstart.toNat = cls := ⟨_, rfl⟩
  rw [hcls] at hstep hframe
  have hcodes := afterBlock_codesAt (.hdb3 len) s0 (hdb3Pattern cls p) s
  have houtside := afterBlock_sameOutside (.hdb3 len) s0 (hdb3Pattern cls p) s
  rw [hdb3Pattern_length] at hcodes houtside
  refine ⟨_, cls, hstep, fun hv => ?first, fun hv => ?later, hframe, ?codes, houtside⟩
  case first => rw [← hcls, hv, classify_first_eq_odd]
  case later => rw [← hcls, hv, classify_later_eq_odd]
  case codes =>
    rw [hcodes, hr]
    cases cls with
    | even => exact hdb3Pattern_even_codes hp
    | odd => exact hdb3Pattern_odd_codes hp

end Sys2Proof.Machine

/-! ## The words of a command (30_encoding.md R60 to R62) -/

namespace Sys2Proof

/-- The KIND word of a selector is the KIND word it was read from, with bits 31:4 cleared. -/
theorem kindField_word (kind : Word) : (kindField kind).setWidth 32 = kind &&& 0xF#32 := by
  apply BitVec.eq_of_toNat_eq
  have hmask : kind.toNat &&& 15 = kind.toNat % 16 := Nat.and_two_pow_sub_one_eq_mod kind.toNat 4
  simp only [kindField, BitVec.toNat_setWidth, BitVec.toNat_and, BitVec.toNat_ofNat]
  rw [show 15 % 2 ^ 32 = 15 by decide, hmask]
  omega

theorem kindField_toNat (kind : Word) : (kindField kind).toNat = (kind &&& 0xF#32).toNat := by
  rw [← kindField_word, BitVec.toNat_setWidth]
  omega

theorem decode_encode (i : Instr) : decode (encode i) = .ok i := by
  rw [encode, decode_pair, kindField_setWidth, Machine.commandOf_code_len]

/-- A pair of words is the encoding of what it decodes to, but for KIND bits 31:4 and a reserved code's LEN word. -/
theorem encode_commandOf (kind len : Word) :
    encode (commandOf (kindField kind) len) =
      [kind &&& 0xF#32, if (kind &&& 0xF#32).toNat < 9 then len else 0#32] := by
  rw [encode, commandOf_code, commandOf_len, kindField_word, kindField_toNat]

/-- Settles O1: the decoder inverts the encoder by its selector and operand, and rejects by the list's length. -/
theorem decodeAndEncodeAgree : Obligations.DecodeAndEncodeAgree := by
  refine ⟨decode_encode, fun kind len => ⟨_, decode_pair kind len, encode_commandOf kind len⟩, fun ws hws => ?_⟩
  match ws with
  | [] => exact ⟨_, rfl⟩
  | [_] => exact ⟨_, rfl⟩
  | [_, _] => exact absurd rfl hws
  | _ :: _ :: _ :: _ => exact ⟨_, rfl⟩

/-- Settles O2: each code is looked up in the selector table. -/
theorem writtenOutCodesDecode : Obligations.WrittenOutCodesDecode := by
  refine ⟨rfl, rfl, rfl, rfl, rfl, rfl, rfl, rfl, ?_, ?_⟩ <;> decide

end Sys2Proof

/-! ## The event of a command, by cases (R80, R85 to R89)

Everything `exec` can answer, for every command and state, as one relation with a constructor for each rule. Frames,
non-interference and the invariant are then case splits on it. -/

namespace Sys2Proof.Machine

/-- What runs while BUSY is the command of OPK (R84). -/
theorem running_code (s : State) : s.running.code = s.work.opk := commandOf_code s.work.opk s.work.n

theorem replaceOf_wrote {i : Instr} (hL : blockLength i.code ≠ 0) {s0 : Nat} {s u : State}
    (h : replaceOf i s0 s = .wrote u) :
    s0 ≠ 0 ∧ (∀ k, k < blockLength i.code → s.obufRead (s0 + k) = 0b00#2) ∧
      ∃ p : LineSymbol, p ≠ .zero ∧ s.obufRead (s0 - 1) = p.code ∧
        u = writeBlock i s0 (patternOf i s0 (recordOf s.work) p) s := by
  cases i with
  | b8zs len => exact b8zsReplace_wrote h
  | hdb3 len =>
    simp only [patternOf_hdb3]
    exact hdb3Replace_wrote h
  | _ => exact absurd rfl hL

/-- The faults of the spec that a replacement can raise, and when (R133, R152). -/
theorem replaceOf_raised {i : Instr} (hL : blockLength i.code ≠ 0) {s0 : Nat} {s : State} {c : Cause} {f : Info}
    (h : replaceOf i s0 s = .raised c f) :
    (s0 = 0 ∧ c = .invalidInput ∧ f = .noPreceding) ∨
    (s0 ≠ 0 ∧ s.obufRead (s0 - 1) = 0b00#2 ∧ c = .internalInvariantViolation ∧ f = .precedingZero) ∨
    (s0 ≠ 0 ∧ (∃ k, k < blockLength i.code ∧ s.obufRead (s0 + k) ≠ 0b00#2) ∧
      c = .internalInvariantViolation ∧ f = .runShape) := by
  cases i with
  | b8zs len => exact replaceBlock_raised ((replaceOf_b8zs ..).symm.trans h)
  | hdb3 len => exact replaceBlock_raised ((replaceOf_hdb3 ..).symm.trans h)
  | _ => exact absurd rfl hL

/-- What a replacement raises depends on what OBUF holds and on nothing else. -/
theorem replaceBlock_raised_congr {L s0 : Nat} {f g : LineSymbol → State → State} {s t : State} {c : Cause} {e : Info}
    (hread : ∀ j, t.obufRead j = s.obufRead j) (h : replaceBlock L s0 f s = .raised c e) :
    replaceBlock L s0 g t = .raised c e := by
  have hblock : blockIsZero L s0 t = blockIsZero L s0 s := by simp only [blockIsZero, hread]
  unfold replaceBlock at h ⊢
  rw [hblock, hread]
  split at h
  · next h0 => rwa [if_pos h0]
  · next h0 =>
    rw [if_neg h0]
    split at h
    · next hz =>
      rw [if_pos hz]
      cases hp : symOfCode (s.obufRead (s0 - 1)) with
      | none => simp [hp] at h
      | some v => cases v <;> simp_all
    · next hz => rwa [if_neg hz]

theorem replaceOf_raised_congr {i : Instr} (hL : blockLength i.code ≠ 0) {s0 : Nat} {s t : State} {c : Cause} {e : Info}
    (hread : ∀ j, t.obufRead j = s.obufRead j) (h : replaceOf i s0 s = .raised c e) :
    replaceOf i s0 t = .raised c e := by
  cases i with
  | b8zs len => rw [replaceOf_b8zs] at h ⊢; exact replaceBlock_raised_congr hread h
  | hdb3 len => rw [replaceOf_hdb3] at h ⊢; exact replaceBlock_raised_congr hread h
  | _ => exact absurd rfl hL

/-- The event of command `i` leads from `s` to the given state. -/
inductive CommandStep (i : Instr) (s : State) : State → Prop
  /-- START, when ST is not BUSY (R80). -/
  | start (hb : s.busy = false) : CommandStep i s (startCommand i s)
  /-- A P1 step (R85). -/
  | emit (hn : namesOperation i = true) (hs : atP1Step s) : CommandStep i s (codeBitOf i s).advance
  /-- The end of P1 (R86). -/
  | endP1 (hn : namesOperation i = true) (hs : atP1End s) : CommandStep i s (endPassOf i s)
  /-- A P2 step past a nonzero symbol (R87). -/
  | pulse (hL : blockLength i.code ≠ 0) (hs : atP2Step s) (hv : s.obufRead s.pos ≠ 0b00#2) :
      CommandStep i s (s.setZcnt 0#3).advance
  /-- A P2 step past a zero that completes no block (R87). -/
  | zero (hL : blockLength i.code ≠ 0) (hs : atP2Step s) (hv : s.obufRead s.pos = 0b00#2)
      (hz : s.work.zcnt.toNat + 1 < blockLength i.code) : CommandStep i s (s.setZcnt (s.work.zcnt + 1#3)).advance
  /-- A P2 step that replaces a block after the pulse `p` (R133, R152). -/
  | block (hL : blockLength i.code ≠ 0) (hs : atP2Step s) (hv : s.obufRead s.pos = 0b00#2)
      (hz : blockLength i.code ≤ s.work.zcnt.toNat + 1) {s0 : Nat} (hs0 : s.pos + 1 - blockLength i.code = s0)
      (h0 : s0 ≠ 0) (hblock : ∀ k, k < blockLength i.code → s.obufRead (s0 + k) = 0b00#2) {p : LineSymbol}
      (hp : p ≠ .zero) (hr : s.obufRead (s0 - 1) = p.code) :
      CommandStep i s (afterBlock i s0 (patternOf i s0 (recordOf s.work) p) s)
  /-- A P2 step that raises a fault of the spec (R134, R138, R154, R159). -/
  | raise (hL : blockLength i.code ≠ 0) (hs : atP2Step s) (hv : s.obufRead s.pos = 0b00#2)
      (hz : blockLength i.code ≤ s.work.zcnt.toNat + 1) {c : Cause} {f : Info}
      (hr : replaceOf i (s.pos + 1 - blockLength i.code) (s.setZcnt 0#3) = .raised c f) :
      CommandStep i s (raiseFault c f (s.setZcnt 0#3))
  /-- The end of P2 (R89). -/
  | endP2 (hL : blockLength i.code ≠ 0) (hs : atP2End s) : CommandStep i s (finishWith s.work.n s)

section
variable {i : Instr} {s t : State}

/-- At a P1 step a command of an operation emits its bit. -/
theorem exec_p1_step (hn : namesOperation i = true) (hs : atP1Step s) : exec i s = .next (codeBitOf i s).advance := by
  obtain ⟨hb, hp, hlt⟩ := hs
  rw [exec_p1 hn hb hp, passOne_step hlt]

/-- At a P2 step a command with a substitution pass scans. -/
theorem exec_p2_step (hL : blockLength i.code ≠ 0) (hs : atP2Step s) :
    exec i s = scanStep (blockLength i.code) (replaceOf i) s := by
  obtain ⟨hb, hp, hlt⟩ := hs
  rw [exec_p2 hL hb hp, passTwo_scan hlt]

theorem CommandStep.exec_eq (h : CommandStep i s t) : exec i s = .next t := by
  cases h with
  | start hb => exact exec_idle i hb
  | emit hn hs => exact exec_p1_step hn hs
  | endP1 hn hs => exact exec_p1_end hn hs
  | pulse hL hs hv => rw [exec_p2_step hL hs, scanStep_pulse hv]
  | zero hL hs hv hz => rw [exec_p2_step hL hs, scanStep_zero hv hz]
  | block hL hs hv hz hs0 h0 hblock hp hr =>
    have hwrote := replaceOf_writes hL (s := s.setZcnt 0#3) h0 hblock hp hr
    rw [exec_p2_step hL hs, scanStep_wrote hv hz (by rw [hs0]; exact hwrote)]
    rfl
  | raise hL hs hv hz hr => rw [exec_p2_step hL hs, scanStep_raised hv hz hr]
  | endP2 hL hs =>
    obtain ⟨hb, hp, he⟩ := hs
    rw [exec_p2 hL hb hp, passTwo_end he]

/-- `exec` answers a next state by these rules alone. -/
theorem CommandStep.of_exec (h : exec i s = .next t) : CommandStep i s t := by
  rcases exec_next h with ⟨hb, rfl⟩ | ⟨hb, hn, hp, h1⟩ | ⟨hb, hL, hp, h2⟩
  · exact .start hb
  · rcases passOne_next h1 with ⟨hlt, rfl⟩ | ⟨he, rfl⟩
    · exact .emit hn ⟨hb, hp, hlt⟩
    · exact .endP1 hn ⟨hb, hp, he⟩
  · rcases passTwo_next h2 with ⟨hlt, h2⟩ | ⟨he, rfl⟩
    · have hs : atP2Step s := ⟨hb, hp, hlt⟩
      rcases scanStep_next h2 with ⟨hv, rfl⟩ | ⟨hv, hz, rfl⟩ | ⟨hv, hz, u, hu, rfl⟩ | ⟨hv, hz, c, f, hr, rfl⟩
      · exact .pulse hL hs hv
      · exact .zero hL hs hv hz
      · obtain ⟨h0, hblock, p, hne, hprev, rfl⟩ := replaceOf_wrote hL hu
        exact .block hL hs hv hz rfl h0 hblock hne hprev
      · exact .raise hL hs hv hz hr
    · exact .endP2 hL ⟨hb, hp, he⟩

/-! ### What no command writes (R12, R13, R20) -/

theorem startCommand_sameHostSide (i : Instr) (s : State) : SameHostSide s (startCommand i s) := by
  rcases startCommand_cases i s with ⟨c, f, -, h⟩ | ⟨-, h⟩ <;> rw [h] <;> exact ⟨rfl, rfl, rfl, rfl, rfl, rfl, rfl, rfl⟩

theorem codeBitOf_sameHostSide (i : Instr) (s : State) : SameHostSide s (codeBitOf i s).advance := by
  constructor <;> simp [codeBitOf_eq]

theorem endPassOf_sameHostSide (i : Instr) (s : State) : SameHostSide s (endPassOf i s) := by
  cases i <;> exact ⟨rfl, rfl, rfl, rfl, rfl, rfl, rfl, rfl⟩

theorem CommandStep.sameHostSide (h : CommandStep i s t) : SameHostSide s t := by
  cases h with
  | start => exact startCommand_sameHostSide i s
  | emit => exact codeBitOf_sameHostSide i s
  | endP1 => exact endPassOf_sameHostSide i s
  | block => exact (afterBlock_stepFrame ..).host
  | pulse | zero | raise | endP2 => exact ⟨rfl, rfl, rfl, rfl, rfl, rfl, rfl, rfl⟩

/-- Settles O34: by cases on the event. -/
theorem encoderLeavesHostSide : Obligations.EncoderLeavesHostSide :=
  fun _ _ _ h => (CommandStep.of_exec h).sameHostSide

/-! ### Who writes POL and LVL (R18) -/

/-- A bit flips POL only as a pulse of the alternation machine (R110). -/
theorem emit_pol_ne {pos : Nat} {pol lvl b : Bit} (h : (emit i pos pol lvl b).2.1 ≠ pol) :
    ∃ len, (i ∈ [Instr.ami len, .b8zs len, .hdb3 len] ∧ b = 1#1) ∨ (i = .pst len ∧ b = 0#1) := by
  have hpulse : ∀ active : Bit, (pulse (b == active) pol).2 ≠ pol → b = active := by
    intro active hne
    by_contra hb
    exact hne (by simp [pulse, hb])
  cases i with
  | ami len | b8zs len | hdb3 len => exact ⟨len, .inl ⟨by simp, hpulse _ h⟩⟩
  | pst len => exact ⟨len, .inr ⟨rfl, hpulse _ h⟩⟩
  | _ => exact absurd rfl h

theorem endPassOf_levels (i : Instr) (s : State) :
    (endPassOf i s).work.pol = s.work.pol ∧ (endPassOf i s).work.lvl = s.work.lvl := by
  cases i <;> exact ⟨rfl, rfl⟩

theorem afterBlock_levels (i : Instr) (s0 : Nat) (pat : List LineSymbol) (s : State) :
    (afterBlock i s0 pat s).work.pol = s.work.pol ∧ (afterBlock i s0 pat s).work.lvl = s.work.lvl := by
  cases i <;> simp [afterBlock, writeBlock]

/-- A running command writes POL and LVL in a P1 step alone. -/
theorem CommandStep.levels (h : CommandStep i s t) (hb : s.busy = true) :
    (atP1Step s ∧ t = (codeBitOf i s).advance) ∨ (t.work.pol = s.work.pol ∧ t.work.lvl = s.work.lvl) := by
  cases h with
  | start hb' => simp [hb] at hb'
  | emit _ hs => exact .inl ⟨hs, rfl⟩
  | endP1 => exact .inr (endPassOf_levels i s)
  | block => exact .inr (afterBlock_levels ..)
  | pulse | zero | raise | endP2 => exact .inr ⟨rfl, rfl⟩

/-- Settles O32: POL moves only where a P1 step emits a pulse; a step in P2 is no P1 step. -/
theorem polarityChangesOnlyInPulseSteps : Obligations.PolarityChangesOnlyInPulseSteps := by
  refine ⟨fun i s t hb h hne => ?_, fun i s t hb hp h => ?_⟩
  · rcases (CommandStep.of_exec h).levels hb with ⟨hs, rfl⟩ | ⟨hpol, -⟩
    · exact ⟨hs, emit_pol_ne (by simpa [codeBitOf_eq] using hne)⟩
    · exact absurd hpol hne
  · rcases (CommandStep.of_exec h).levels hb with ⟨⟨-, hp1, -⟩, -⟩ | hsame
    · simp [hp] at hp1
    · exact hsame

/-! ### PCLASS is written only (R19) -/

/-- The state with another PCLASS. -/
def State.withClass (s : State) (c : Parity) : State := { s with work := { s.work with pclass := c } }

theorem startCommand_withClass (i : Instr) (s : State) (c : Parity) :
    ∃ d, startCommand i (s.withClass c) = (startCommand i s).withClass d := by
  cases hc : startCheck s.nMax i with
  | none => exact ⟨.even, by rw [startCommand_begins hc, startCommand_begins (s := s.withClass c) hc]; rfl⟩
  | some f => exact ⟨c, by rw [startCommand_raises hc, startCommand_raises (s := s.withClass c) hc]; rfl⟩

theorem codeBitOf_withClass (i : Instr) (s : State) (c : Parity) :
    (codeBitOf i (s.withClass c)).advance = (codeBitOf i s).advance.withClass c := by
  cases i <;> rfl

theorem endPassOf_withClass (i : Instr) (s : State) (c : Parity) :
    endPassOf i (s.withClass c) = (endPassOf i s).withClass c := by
  cases i <;> rfl

/-- A replacement does not read PCLASS, which HDB3 writes. -/
theorem afterBlock_withClass (hL : blockLength i.code ≠ 0) (s0 : Nat) (r : Option Nat) (p : LineSymbol) (s : State)
    (c : Parity) : ∃ d, afterBlock i s0 (patternOf i s0 r p) (s.withClass c) =
      (afterBlock i s0 (patternOf i s0 r p) s).withClass d := by
  cases i with
  | b8zs len => exact ⟨c, rfl⟩
  | hdb3 len =>
    refine ⟨classify s0 s.work.pvalid s.work.pstart.toNat, ?_⟩
    rw [patternOf]
    cases classify s0 r.isSome (r.getD 0) <;> rfl
  | _ => exact absurd rfl hL

theorem CommandStep.withClass (h : CommandStep i s t) (c : Parity) :
    ∃ d, CommandStep i (s.withClass c) (t.withClass d) := by
  cases h with
  | start hb =>
    obtain ⟨d, hd⟩ := startCommand_withClass i s c
    exact ⟨d, hd ▸ .start hb⟩
  | emit hn hs => exact ⟨c, codeBitOf_withClass i s c ▸ .emit hn hs⟩
  | endP1 hn hs => exact ⟨c, endPassOf_withClass i s c ▸ .endP1 hn hs⟩
  | pulse hL hs hv => exact ⟨c, .pulse (s := s.withClass c) hL hs hv⟩
  | zero hL hs hv hz => exact ⟨c, .zero (s := s.withClass c) hL hs hv hz⟩
  | block hL hs hv hz hs0 h0 hblock hp hr =>
    obtain ⟨d, hd⟩ := afterBlock_withClass hL _ (recordOf s.work) _ s c
    exact ⟨d, hd ▸ .block (s := s.withClass c) hL hs hv hz hs0 h0 hblock hp hr⟩
  | raise hL hs hv hz hr =>
    have hr' := replaceOf_raised_congr (s := s.setZcnt 0#3) (t := (s.withClass c).setZcnt 0#3) hL (fun _ => rfl) hr
    exact ⟨c, .raise (s := s.withClass c) hL hs hv hz hr'⟩
  | endP2 hL hs => exact ⟨c, .endP2 (s := s.withClass c) hL hs⟩

/-- Settles O33: each event is possible with any PCLASS, and leads to the same state but for PCLASS. -/
theorem runClassNeverConsulted : Obligations.RunClassNeverConsulted := by
  intro i s t c h
  obtain ⟨d, hd⟩ := (CommandStep.of_exec h).withClass c
  exact ⟨_, d, hd.exec_eq, rfl⟩

end

end Sys2Proof.Machine

/-! ## Sound states (R91, R173)

The invariant in its parts: the buffers, the copies of the running command, and the scan of P2. Each part has a rule for
each change a step can make to it; the step lemma assembles them along `CommandStep`. -/

namespace Sys2Proof.Machine

/-! ### The buffers -/

/-- The part of the invariant that is about IBUF and OBUF: canonical form, range and codes. -/
structure SoundBuffers (s : State) : Prop where
  capLow : 1 ≤ s.nMax
  capHigh : s.nMax ≤ 2147483647
  ibufForm : bufWf s.ibuf
  obufForm : bufWf s.obuf
  ibufRange : ∀ e ∈ s.ibuf, e.1 < s.nMax
  obufRange : ∀ e ∈ s.obuf, e.1 < 2 * s.nMax
  obufCodes : ∀ e ∈ s.obuf, e.2 ≠ 0b10#2

theorem BlockInv.buffers {s : State} (h : BlockInv s) : SoundBuffers s :=
  ⟨h.capLow, h.capHigh, h.ibufForm, h.obufForm, h.ibufRange, h.obufRange, h.obufCodes⟩

section
variable {s t : State}

theorem SoundBuffers.congr (h : SoundBuffers s) (hcap : t.nMax = s.nMax) (hi : t.ibuf = s.ibuf)
    (ho : t.obuf = s.obuf) : SoundBuffers t := by
  obtain ⟨capLow, capHigh, ibufForm, obufForm, ibufRange, obufRange, obufCodes⟩ := h
  constructor <;> simp only [hcap, hi, ho] <;> assumption

theorem SoundBuffers.putSymbol (h : SoundBuffers s) {j : Nat} (hj : j < 2 * s.nMax) (v : LineSymbol) :
    SoundBuffers (s.putSymbol j v) :=
  { h with
    obufForm := bufWrite_wf h.obufForm j v.code
    obufRange := fun _ he => (mem_bufWrite he).elim (fun heq => heq ▸ hj) (h.obufRange _)
    obufCodes := fun _ he => (mem_bufWrite he).elim (fun heq => heq ▸ v.code_ne_two) (h.obufCodes _) }

theorem SoundBuffers.putSymbols (h : SoundBuffers s) {j : Nat} {pat : List LineSymbol}
    (hfit : j + pat.length ≤ 2 * s.nMax) : SoundBuffers (s.putSymbols j pat) := by
  induction pat generalizing s j with
  | nil => exact h
  | cons v rest ih =>
    rw [List.length_cons] at hfit
    exact ih (h.putSymbol (by omega) v) (by rw [putSymbol_nMax]; omega)

theorem SoundBuffers.putBit (h : SoundBuffers s) {i : Nat} (hi : i < s.nMax) (b : Bit) : SoundBuffers (s.putBit i b) :=
  { h with
    ibufForm := bufWrite_wf h.ibufForm i b
    ibufRange := fun _ he => (mem_bufWrite he).elim (fun heq => heq ▸ hi) (h.ibufRange _) }

theorem SoundBuffers.empty (h : SoundBuffers s) (hcap : t.nMax = s.nMax) (hi : t.ibuf = []) (ho : t.obuf = []) :
    SoundBuffers t where
  capLow := hcap ▸ h.capLow
  capHigh := hcap ▸ h.capHigh
  ibufForm := hi ▸ List.Pairwise.nil
  obufForm := ho ▸ List.Pairwise.nil
  ibufRange := by simp [hi]
  obufRange := by simp [ho]
  obufCodes := by simp [ho]

/-! ### What P1 has written -/

theorem symbolsBelow_congr {k : Nat} (h : symbolsBelow s k) (ho : t.obuf = s.obuf) : symbolsBelow t k :=
  fun j hj => ho ▸ h j hj

/-- Symbols written behind those that stand there. -/
theorem symbolsBelow_extend {k : Nat} (h : symbolsBelow s k) (pat : List LineSymbol) :
    symbolsBelow (s.putSymbols k pat) (k + pat.length) := by
  intro j hj
  rw [putSymbols_lookup]
  by_cases hin : k ≤ j ∧ j < k + pat.length
  · have hlt : j - k < pat.length := by omega
    exact ⟨pat[j - k], by simp [hin, hlt]⟩
  · rw [if_neg hin]
    exact h j (by omega)

/-- Symbols written over those that stand there. -/
theorem symbolsBelow_putSymbols {k : Nat} (h : symbolsBelow s k) (s0 : Nat) (pat : List LineSymbol) :
    symbolsBelow (s.putSymbols s0 pat) k := by
  intro j hj
  rw [putSymbols_lookup]
  by_cases hin : s0 ≤ j ∧ j < s0 + pat.length
  · have hlt : j - s0 < pat.length := by omega
    exact ⟨pat[j - s0], by simp [hin, hlt]⟩
  · rw [if_neg hin]
    exact h j hj

theorem symbolsBelow_read {k j : Nat} (h : symbolsBelow s k) (hj : j < k) :
    ∃ v : LineSymbol, s.obufRead j = v.code := by
  obtain ⟨v, hv⟩ := h j hj
  exact ⟨v, by simp [State.obufRead, hv]⟩

/-! ### The parts of a running operation -/

/-- The copies of a running command are legal and IDX is in range (R81 to R83, R22). -/
structure SoundCopies (s : State) : Prop where
  names : s.work.opk.toNat < 9
  fits : s.work.n.toNat ≤ s.nMax
  needed : needsElement s.work.opk = true → s.work.n ≠ 0#32
  inRange : s.pos ≤ s.work.n.toNat

/-- The scan of P2 at IDX: OBUF is written, and ZCNT counts the zeros since the last pulse or the start, behind the last
run of the record (R87, R88, R160). -/
structure SoundScan (s : State) : Prop where
  kind : 0 < blockLength s.work.opk
  written : symbolsBelow s s.work.n.toNat
  count : s.work.zcnt.toNat < blockLength s.work.opk
  bound : s.work.zcnt.toNat ≤ s.pos
  zeros : ∀ j, s.pos - s.work.zcnt.toNat ≤ j → j < s.pos → s.obufRead j = 0b00#2
  pulse : 0 < s.pos - s.work.zcnt.toNat → s.obufRead (s.pos - s.work.zcnt.toNat - 1) ≠ 0b00#2
  record : s.work.pvalid = true → s.work.pstart.toNat + 4 ≤ s.pos - s.work.zcnt.toNat

theorem RunningInv.copies (h : RunningInv s) : SoundCopies s := ⟨h.names, h.fits, h.needed, h.inRange⟩

theorem RunningInv.scan (h : RunningInv s) (hp : s.work.ph = .p2) : SoundScan s :=
  ⟨h.p2Kind hp, h.p2Written hp, h.p2Count hp, h.p2Bound hp, h.p2Zeros hp, h.p2Pulse hp, h.p2Record hp⟩

theorem RunningInv.of_p1 (hc : SoundCopies s) (hp : s.work.ph = .p1) (hrec : s.work.pvalid = false)
    (hw : symbolsBelow s (writtenBy s.work.opk s.pos)) : RunningInv s := by
  have hnot : s.work.ph ≠ .p2 := by simp [hp]
  exact ⟨hc.names, hc.fits, hc.needed, hc.inRange, fun h => absurd h hnot, fun _ => hrec, fun _ => hw,
    fun h => absurd h hnot, fun h => absurd h hnot, fun h => absurd h hnot, fun h => absurd h hnot,
    fun h => absurd h hnot, fun h => absurd h hnot⟩

theorem RunningInv.of_p2 (hc : SoundCopies s) (hp : s.work.ph = .p2) (hscan : SoundScan s) : RunningInv s := by
  have hnot : s.work.ph ≠ .p1 := by simp [hp]
  exact ⟨hc.names, hc.fits, hc.needed, hc.inRange, fun _ => hscan.kind, fun h => absurd h hnot, fun h => absurd h hnot,
    fun _ => hscan.written, fun _ => hscan.count, fun _ => hscan.bound, fun _ => hscan.zeros,
    fun _ => hscan.pulse, fun _ => hscan.record⟩

theorem SoundCopies.names_running (h : SoundCopies s) : namesOperation s.running = true :=
  (namesOperation_iff _).2 (by rw [running_code]; exact h.names)

/-- Where IDX moves on by one under the same copies. -/
theorem SoundCopies.next (h : SoundCopies s) (hopk : t.work.opk = s.work.opk) (hn : t.work.n = s.work.n)
    (hcap : t.nMax = s.nMax) (hpos : t.pos = s.pos + 1) (hlt : s.pos < s.work.n.toNat) : SoundCopies t where
  names := hopk ▸ h.names
  fits := by rw [hn, hcap]; exact h.fits
  needed := by rw [hopk, hn]; exact h.needed
  inRange := by rw [hn, hpos]; exact hlt

/-! ### The scan, one symbol on -/

/-- Past a pulse, an old one or the last of a pattern, the count begins anew. -/
theorem SoundScan.after_pulse (hkind : 0 < blockLength t.work.opk) (hw : symbolsBelow t t.work.n.toNat)
    (hz : t.work.zcnt = 0#3) {pos : Nat} (hpos : t.pos = pos + 1) (hv : t.obufRead pos ≠ 0b00#2)
    (hrec : t.work.pvalid = true → t.work.pstart.toNat + 4 ≤ pos + 1) : SoundScan t where
  kind := hkind
  written := hw
  count := by simpa [hz] using hkind
  bound := by simp [hz]
  zeros j h1 h2 := by simp [hz] at h1; omega
  pulse _ := by simpa [hz, hpos] using hv
  record h := by simpa [hz, hpos] using hrec h

/-- Past a zero that completes no block there is one zero more. -/
theorem SoundScan.after_zero (h : SoundScan s) (hv : s.obufRead s.pos = 0b00#2)
    (hz : s.work.zcnt.toNat + 1 < blockLength s.work.opk)
    (hpos : ((s.setZcnt (s.work.zcnt + 1#3)).advance).pos = s.pos + 1) :
    SoundScan (s.setZcnt (s.work.zcnt + 1#3)).advance := by
  have hsucc : (s.work.zcnt + 1#3).toNat = s.work.zcnt.toNat + 1 := by
    have h8 := blockLength_le s.work.opk
    rw [BitVec.toNat_add, show (1#3).toNat = 1 from rfl]
    omega
  obtain ⟨kind, written, count, bound, zeros, pulse, record⟩ := h
  have hsub : s.pos + 1 - (s.work.zcnt.toNat + 1) = s.pos - s.work.zcnt.toNat := Nat.add_sub_add_right ..
  constructor
  case kind => exact kind
  case written => exact written
  case count => simpa [hsucc] using hz
  case bound => rw [hpos]; simpa [hsucc] using bound
  case zeros =>
    rw [hpos, advance_work, setZcnt_work]
    intro j h1 h2
    rw [hsucc, hsub] at h1
    rcases Nat.lt_or_ge j s.pos with hlt | hge
    · exact zeros j h1 hlt
    · rw [show j = s.pos by omega]; exact hv
  case pulse => rw [hpos, advance_work, setZcnt_work, hsucc, hsub]; exact pulse
  case record => rw [hpos, advance_work, setZcnt_work, hsucc, hsub]; exact record

/-- A block that the counter completes is zeros, follows a pulse unless it starts at index 0, and lies behind the last
run of the record (R88, R138, R159, R160). -/
theorem SoundScan.block (h : SoundScan s) (hlt : s.pos < s.work.n.toNat) (hv : s.obufRead s.pos = 0b00#2)
    (hz : blockLength s.work.opk ≤ s.work.zcnt.toNat + 1) {s0 : Nat} (hs0 : s.pos + 1 - blockLength s.work.opk = s0) :
    s0 + blockLength s.work.opk = s.pos + 1 ∧
    (∀ k, k < blockLength s.work.opk → s.obufRead (s0 + k) = 0b00#2) ∧
    (s0 ≠ 0 → ∃ p : LineSymbol, p ≠ .zero ∧ s.obufRead (s0 - 1) = p.code) ∧
    (s.work.pvalid = true → s.work.pstart.toNat + 4 ≤ s0) := by
  obtain ⟨kind, written, count, bound, zeros, pulse, record⟩ := h
  have hstart : s.pos - s.work.zcnt.toNat = s0 := by omega
  rw [hstart] at zeros pulse record
  refine ⟨by omega, fun k hk => ?_, fun h0 => ?_, record⟩
  · rcases Nat.lt_or_ge (s0 + k) s.pos with hlt' | hge
    · exact zeros _ (by omega) hlt'
    · rw [show s0 + k = s.pos by omega]; exact hv
  · obtain ⟨p, hp⟩ := symbolsBelow_read written (j := s0 - 1) (by omega)
    exact ⟨p, fun hzero => pulse (by omega) (by rw [hp, hzero]; rfl), hp⟩

end

/-- Settles O30: the block that the counter completes, by `SoundScan.block`. -/
theorem completedBlockFollowsPulse : Obligations.CompletedBlockFollowsPulse := by
  rintro s s0 hinv ⟨hb, hp, hlt⟩ hv hz hs0
  obtain ⟨-, hzeros, hprev, hrec⟩ := ((hinv.running hb).scan hp).block hlt hv hz.ge (s0 := s0) (by omega)
  refine ⟨hzeros, fun h0 => ?_, fun hvalid => ?_⟩
  · obtain ⟨p, hne, hread⟩ := hprev h0.ne'
    cases p with
    | zero => exact absurd rfl hne
    | plus => exact .inl hread
    | minus => exact .inr hread
  · have := hrec hvalid
    unfold hdb3Gap
    omega

/-! ### A sound block always has an event (R91) -/

section
variable {s t : State}

theorem BlockInv.status_busy (h : BlockInv s) (hb : s.busy = true) : s.status = ⟨.busy, .none, .none⟩ := by
  have hst : s.status.st = .busy := by simpa [State.busy] using hb
  have hreach := h.status
  cases hs : s.status with
  | mk st c f =>
    rw [hs] at hst hreach
    cases hst
    simpa [reachableStatus] using hreach

theorem BlockInv.olen_busy (h : BlockInv s) (hb : s.busy = true) : s.olen = 0#32 :=
  h.olenOnlyDone (by simp [h.status_busy hb])

/-- While BUSY one of the four steps is enabled: its replacement finds zeros and a pulse, or the start of OBUF. -/
theorem BlockInv.commandStep (h : BlockInv s) (hb : s.busy = true) : ∃ t, CommandStep s.running s t := by
  have hrun := h.running hb
  have hcode := running_code s
  have hpos := Nat.lt_or_eq_of_le hrun.copies.inRange
  cases hp : s.work.ph with
  | p1 =>
    have hn := hrun.copies.names_running
    rcases hpos with hlt | heq
    · exact ⟨_, .emit hn ⟨hb, hp, hlt⟩⟩
    · exact ⟨_, .endP1 hn ⟨hb, hp, BitVec.eq_of_toNat_eq heq⟩⟩
  | p2 =>
    have hscan := hrun.scan hp
    have hL : blockLength s.running.code ≠ 0 := by rw [hcode]; exact hscan.kind.ne'
    rcases hpos with hlt | heq
    · have hs : atP2Step s := ⟨hb, hp, hlt⟩
      by_cases hv : s.obufRead s.pos = 0b00#2
      · rcases Nat.lt_or_ge (s.work.zcnt.toNat + 1) (blockLength s.running.code) with hz | hz
        · exact ⟨_, .zero hL hs hv hz⟩
        · obtain ⟨-, hzeros, hprev, -⟩ := hscan.block hlt hv (hcode ▸ hz) rfl
          rw [← hcode] at hzeros hprev
          by_cases h0 : s.pos + 1 - blockLength s.running.code = 0
          · exact ⟨_, .raise hL hs hv hz (by rw [h0]; exact replaceOf_first hL _)⟩
          · obtain ⟨p, hne, hread⟩ := hprev h0
            exact ⟨_, .block hL hs hv hz rfl h0 hzeros hne hread⟩
      · exact ⟨_, .pulse hL hs hv⟩
    · exact ⟨_, .endP2 hL ⟨hb, hp, BitVec.eq_of_toNat_eq heq⟩⟩

/-- An event of a running command ends the operation, or leaves fewer steps (R91). -/
theorem CommandStep.stepsLeft_lt {i : Instr} (h : CommandStep i s t) (hb : s.busy = true) (hopk : s.work.opk = i.code)
    (hn : s.work.n.toNat ≤ 2147483647) (ht : t.busy = true) : stepsLeft t < stepsLeft s := by
  have hscanned : ∀ u : State, atP2Step s → u.work.ph = s.work.ph → u.work.n = s.work.n → u.pos = s.pos →
      stepsLeft u.advance < stepsLeft s := by
    rintro u ⟨-, hp, hlt⟩ hph hun hpos
    have hadv : u.advance.pos = s.pos + 1 := by rw [advance_pos (hpos ▸ hlt) hn, hpos]
    rw [stepsLeft_p2 hp, stepsLeft_p2 (s := u.advance) (hph.trans hp), hadv, advance_work, hun]
    have : s.pos < s.work.n.toNat := hlt
    omega
  cases h with
  | start hb' => simp [hb] at hb'
  | emit _ hs =>
    obtain ⟨-, hp, hlt⟩ := hs
    have hlt : s.pos < s.work.n.toNat := hlt
    have hp' : (codeBitOf i s).advance.work.ph = .p1 := by simpa [codeBitOf_eq] using hp
    rw [stepsLeft_p1 hp, stepsLeft_p1 hp', codeBitOf_advance_pos i hlt hn]
    simp only [codeBitOf_eq, advance_work, setLvl_work, setPol_work, putSymbols_work]
    omega
  | endP1 hname hs =>
    obtain ⟨-, hp, he⟩ := hs
    by_cases hL : blockLength i.code = 0
    · obtain ⟨w, hw, -⟩ := endPassOf_finishes (s := s) hname hL hn
      simp [hw, State.busy] at ht
    · have hzero : (enterP2 s).pos = 0 := rfl
      rw [endPassOf_enters hL, stepsLeft_p1 hp, stepsLeft_p2 (s := enterP2 s) rfl, hopk, if_neg hL, hzero]
      simp only [enterP2_work]
      omega
  | pulse _ hs => exact hscanned _ hs rfl rfl rfl
  | zero _ hs => exact hscanned _ hs rfl rfl rfl
  | block _ hs => exact hscanned _ hs (by simp) (by simp) (by simp)
  | raise => simp [State.busy] at ht
  | endP2 => simp [State.busy] at ht

end

/-- Settles O8: a sound BUSY block has an event, and `stepsLeft` falls along it; right after START it is the bound. -/
theorem encoderAlwaysProgresses : Obligations.EncoderAlwaysProgresses := by
  refine ⟨fun s hinv hb => ?_, fun i s hb hwf => ⟨_, exec_idle i hb, ?_⟩⟩
  · obtain ⟨t, ht⟩ := hinv.commandStep hb
    have hn : s.work.n.toNat ≤ 2147483647 := le_trans (hinv.running hb).fits hinv.capHigh
    exact ⟨t, ht.exec_eq, ht.stepsLeft_lt hb (running_code s).symm hn⟩
  · exact startCommand_stepsLeft ((startCheck_eq_none _ _).2 hwf)

/-! ### The invariant along each event -/

section
variable {s t : State}

/-- Sound buffers, with neither an operation nor a result. -/
theorem BlockInv.of_outcomeless (hbuf : SoundBuffers t) (hst : reachableStatus t.status = true)
    (hdone : t.status.st ≠ .done) (hbusy : t.status.st ≠ .busy) (holen : t.olen = 0#32) : BlockInv t :=
  ⟨hbuf.capLow, hbuf.capHigh, hbuf.ibufForm, hbuf.obufForm, hbuf.ibufRange, hbuf.obufRange, hbuf.obufCodes, hst,
    fun _ => holen, by simp [holen], fun h => absurd h hdone, fun h => absurd (by simpa [State.busy] using h) hbusy⟩

/-- Sound buffers, and a result that has been written. -/
theorem BlockInv.of_result (hbuf : SoundBuffers t) (hst : t.status = ⟨.done, .none, .none⟩)
    (holen : t.olen.toNat ≤ 2 * t.nMax) (hw : symbolsBelow t t.olen.toNat) : BlockInv t :=
  ⟨hbuf.capLow, hbuf.capHigh, hbuf.ibufForm, hbuf.obufForm, hbuf.ibufRange, hbuf.obufRange, hbuf.obufCodes,
    by rw [hst]; rfl, fun h => absurd (by rw [hst]) h, holen, fun _ => hw, fun h => by simp [State.busy, hst] at h⟩

/-- Sound buffers, and an operation that runs. -/
theorem BlockInv.of_running (hbuf : SoundBuffers t) (hst : t.status = ⟨.busy, .none, .none⟩) (holen : t.olen = 0#32)
    (hrun : RunningInv t) : BlockInv t :=
  ⟨hbuf.capLow, hbuf.capHigh, hbuf.ibufForm, hbuf.obufForm, hbuf.ibufRange, hbuf.obufRange, hbuf.obufCodes,
    by rw [hst]; rfl, fun _ => holen, by simp [holen], fun h => by simp [hst] at h, fun _ => hrun⟩

/-- What the encoder does not read is no part of the invariant. -/
theorem BlockInv.of_host (h : BlockInv s) (k : BitVec 4) (l : Word) (r : List Input) (p : List Reply) (d : Nat) :
    BlockInv { s with kind := k, len := l, inputs := r, replies := p, draws := d } :=
  ⟨h.capLow, h.capHigh, h.ibufForm, h.obufForm, h.ibufRange, h.obufRange, h.obufCodes, h.status, h.olenOnlyDone,
    h.olenRange, h.resultWritten, fun hb =>
      have hrun := h.running hb
      ⟨hrun.names, hrun.fits, hrun.needed, hrun.inRange, hrun.p2Kind, hrun.p1Record, hrun.p1Written, hrun.p2Written,
        hrun.p2Count, hrun.p2Bound, hrun.p2Zeros, hrun.p2Pulse, hrun.p2Record⟩⟩

theorem writtenBy_le (opk : BitVec 4) (n : Nat) : writtenBy opk n ≤ 2 * n := by
  unfold writtenBy; split_ifs <;> omega

/-- START records a fault, or sets up the first pass (R80 to R84). -/
theorem BlockInv.start (h : BlockInv s) (i : Instr) : BlockInv (startCommand i s) := by
  cases hc : startCheck s.nMax i with
  | some f =>
    obtain ⟨c, f⟩ := f
    rw [startCommand_raises hc]
    refine .of_outcomeless (h.buffers.congr rfl rfl rfl) ?_ (by simp) (by simp) rfl
    rcases startCheck_eq_some hc with hf | hf | hf <;> cases hf <;> rfl
  | none =>
    obtain ⟨hk, hfits⟩ := startCheck_none hc
    have hneeded : needsElement i.code = true → i.len ≠ 0#32 := fun hneed hzero => by
      simp [startCheck_fits hk hfits, hneed, hzero] at hc
    rw [startCommand_begins hc]
    refine .of_running (h.buffers.congr rfl rfl rfl) rfl rfl (.of_p1 ⟨hk, hfits, hneeded, Nat.zero_le _⟩ rfl rfl ?_)
    intro j hj
    exact absurd hj (by simp [State.pos, Work.initial])

/-- A P1 step writes what its bit emits behind what P1 has written (R85). -/
theorem BlockInv.emit (h : BlockInv s) (hs : atP1Step s) : BlockInv (codeBitOf s.running s).advance := by
  obtain ⟨hb, hp, hlt⟩ := hs
  have hrun := h.running hb
  have hcode := running_code s
  have hfits := hrun.fits
  have hcap := h.capHigh
  have hpos := codeBitOf_advance_pos s.running hlt (by omega)
  rw [codeBitOf_eq] at hpos ⊢
  have hlen := emit_length hrun.copies.names_running s.pos s.work.pol s.work.lvl (s.ibufRead s.pos)
  generalize Machine.emit s.running s.pos s.work.pol s.work.lvl (s.ibufRead s.pos) = out at hlen hpos ⊢
  rw [hcode] at hlen hpos ⊢
  have hend : writtenBy s.work.opk s.pos + out.1.length = writtenBy s.work.opk (s.pos + 1) := by
    rw [hlen, ← writtenBy_succ]
  have hroom : writtenBy s.work.opk (s.pos + 1) ≤ 2 * s.nMax :=
    (writtenBy_le _ _).trans (by have : s.pos < s.work.n.toNat := hlt; omega)
  have hwritten := symbolsBelow_extend (hrun.p1Written hp) out.1
  refine .of_running ((h.buffers.putSymbols (by rw [hend]; exact hroom)).congr rfl rfl rfl) ?_ ?_
    (.of_p1 (hrun.copies.next ?_ ?_ ?_ hpos hlt) ?_ ?_ ?_)
  · simpa using h.status_busy hb
  · simpa using h.olen_busy hb
  · simp
  · simp
  · simp
  · simpa using hp
  · simpa using hrun.p1Record hp
  · rw [hpos]
    refine symbolsBelow_congr (s := s.putSymbols (writtenBy s.work.opk s.pos) out.1) ?_ rfl
    simp only [advance_work, setLvl_work, setPol_work, putSymbols_work, ← hend]
    exact hwritten

/-- The end of P1 shows the result, or enters the scan (R86). -/
theorem BlockInv.endP1 (h : BlockInv s) (hs : atP1End s) : BlockInv (endPassOf s.running s) := by
  obtain ⟨hb, hp, he⟩ := hs
  have hrun := h.running hb
  have hcode := running_code s
  have hfits := hrun.fits
  have hcap := h.capHigh
  have hwritten := hrun.p1Written hp
  rw [he] at hwritten
  by_cases hL : blockLength s.running.code = 0
  · obtain ⟨w, hw, hlen⟩ := endPassOf_finishes (s := s) hrun.copies.names_running hL (by omega)
    rw [hcode] at hlen
    rw [hw]
    refine .of_result (h.buffers.congr rfl rfl rfl) (by simp [h.status_busy hb]) ?_ ?_
    · rw [finishWith_olen, hlen]
      exact (writtenBy_le _ _).trans (Nat.mul_le_mul_left 2 hfits)
    · rw [finishWith_olen, hlen]
      exact symbolsBelow_congr hwritten rfl
  · rw [endPassOf_enters hL]
    rw [hcode] at hL
    rw [writtenBy_of_block hL] at hwritten
    have hvalid := hrun.p1Record hp
    have hzero : (enterP2 s).pos = 0 := rfl
    refine .of_running (h.buffers.congr rfl rfl rfl) (h.status_busy hb) (h.olen_busy hb)
      (.of_p2 ⟨hrun.names, hrun.fits, hrun.needed, Nat.zero_le _⟩ rfl ?_)
    constructor
    case kind => exact Nat.pos_of_ne_zero hL
    case written => exact symbolsBelow_congr hwritten rfl
    case count => exact Nat.pos_of_ne_zero hL
    case bound => exact Nat.zero_le _
    case zeros => intro j _ hj; rw [hzero] at hj; exact absurd hj (Nat.not_lt_zero j)
    case pulse => intro hj; simp [hzero] at hj
    case record => intro hj; simp [hvalid] at hj

/-- A P2 step that goes on keeps the copies and advances IDX (R87). -/
theorem BlockInv.scanned (h : BlockInv s) (hs : atP2Step s) (hbuf : SoundBuffers t) (hst : t.status = s.status)
    (holen : t.olen = s.olen) (hcap : t.nMax = s.nMax) (hph : t.work.ph = s.work.ph) (hopk : t.work.opk = s.work.opk)
    (hn : t.work.n = s.work.n) (hpos : t.pos = s.pos + 1) (hscan : SoundScan t) : BlockInv t := by
  obtain ⟨hb, hp, hlt⟩ := hs
  exact .of_running hbuf (hst.trans (h.status_busy hb)) (holen.trans (h.olen_busy hb))
    (.of_p2 ((h.running hb).copies.next hopk hn hcap hpos hlt) (hph.trans hp) hscan)

/-- A P2 step past a nonzero symbol (R87). -/
theorem BlockInv.pulse (h : BlockInv s) (hs : atP2Step s) (hv : s.obufRead s.pos ≠ 0b00#2) :
    BlockInv (s.setZcnt 0#3).advance := by
  obtain ⟨hb, hp, hlt⟩ := hs
  have hscan := (h.running hb).scan hp
  have hpos : (s.setZcnt 0#3).advance.pos = s.pos + 1 :=
    advance_pos (s := s.setZcnt 0#3) hlt ((h.running hb).fits.trans h.capHigh)
  have hrec : s.work.pvalid = true → s.work.pstart.toNat + 4 ≤ s.pos + 1 := fun hvalid => by
    have := hscan.record hvalid
    omega
  exact h.scanned ⟨hb, hp, hlt⟩ (h.buffers.congr rfl rfl rfl) rfl rfl rfl rfl rfl rfl hpos
    (.after_pulse hscan.kind (symbolsBelow_congr hscan.written rfl) rfl hpos hv hrec)

/-- A P2 step past a zero that completes no block (R87). -/
theorem BlockInv.zero (h : BlockInv s) (hs : atP2Step s) (hv : s.obufRead s.pos = 0b00#2)
    (hz : s.work.zcnt.toNat + 1 < blockLength s.work.opk) :
    BlockInv (s.setZcnt (s.work.zcnt + 1#3)).advance := by
  obtain ⟨hb, hp, hlt⟩ := hs
  have hpos : (s.setZcnt (s.work.zcnt + 1#3)).advance.pos = s.pos + 1 :=
    advance_pos (s := s.setZcnt _) hlt ((h.running hb).fits.trans h.capHigh)
  exact h.scanned ⟨hb, hp, hlt⟩ (h.buffers.congr rfl rfl rfl) rfl rfl rfl rfl rfl rfl hpos
    (((h.running hb).scan hp).after_zero hv hz hpos)

theorem afterBlock_obuf (i : Instr) (s0 : Nat) (pat : List LineSymbol) (s : State) :
    (afterBlock i s0 pat s).obuf = ((s.setZcnt 0#3).putSymbols s0 pat).obuf := by
  cases i <;> rfl

theorem afterBlock_ibuf (i : Instr) (s0 : Nat) (pat : List LineSymbol) (s : State) :
    (afterBlock i s0 pat s).ibuf = s.ibuf := (afterBlock_stepFrame i s0 pat s).host.ibuf

theorem afterBlock_pos (i : Instr) (s0 : Nat) (pat : List LineSymbol) {n : Nat} (h : s.pos < n) (hn : n ≤ 2147483647) :
    (afterBlock i s0 pat s).pos = s.pos + 1 := by
  rw [afterBlock, advance_pos (n := n) (by simpa using h) hn, writeBlock_pos, setZcnt_pos]

theorem SoundBuffers.afterBlock (h : SoundBuffers s) (i : Instr) {s0 : Nat} {pat : List LineSymbol}
    (hfit : s0 + pat.length ≤ 2 * s.nMax) : SoundBuffers (afterBlock i s0 pat s) :=
  ((h.congr (t := s.setZcnt 0#3) rfl rfl rfl).putSymbols hfit).congr (by simp [Machine.afterBlock])
    (by simp [afterBlock_ibuf]) (afterBlock_obuf ..)

theorem symbolsBelow_afterBlock {k : Nat} (h : symbolsBelow s k) (i : Instr) (s0 : Nat) (pat : List LineSymbol) :
    symbolsBelow (afterBlock i s0 pat s) k :=
  symbolsBelow_congr (symbolsBelow_putSymbols (s := s.setZcnt 0#3) h s0 pat) (afterBlock_obuf ..)

/-- The last symbol of a replaced block is a pulse. -/
theorem afterBlock_last {i : Instr} (hL : blockLength i.code ≠ 0) {s0 pos : Nat}
    (hend : s0 + blockLength i.code = pos + 1) (r : Option Nat) {p : LineSymbol} (hp : p ≠ .zero) (s : State) :
    (afterBlock i s0 (patternOf i s0 r p) s).obufRead pos ≠ 0b00#2 := by
  have hin : s0 ≤ pos ∧ pos < s0 + (patternOf i s0 r p).length := by rw [patternOf_length hL]; omega
  rw [afterBlock_obufRead, if_pos hin, show pos - s0 = blockLength i.code - 1 by omega]
  exact fun hzero => patternOf_last hL s0 r hp (LineSymbol.code_eq_zero.1 hzero)

/-- The record after a replaced block is the run itself, or the old one, which lies before it (R157, R160). -/
theorem afterBlock_record {i : Instr} {s0 pos : Nat} (hs0 : s0 ≤ 2147483647) (hend : s0 + blockLength i.code = pos + 1)
    (pat : List LineSymbol) (hold : s.work.pvalid = true → s.work.pstart.toNat + 4 ≤ s0)
    (hvalid : (afterBlock i s0 pat s).work.pvalid = true) :
    (afterBlock i s0 pat s).work.pstart.toNat + 4 ≤ pos + 1 := by
  rw [afterBlock, advance_work] at hvalid ⊢
  cases i with
  | hdb3 len =>
    have hstart : (BitVec.ofNat 32 s0).toNat = s0 := by simp; omega
    rw [writeBlock_hdb3_work, hstart]
    exact hend.le
  | _ =>
    simp only [writeBlock, putSymbols_work, setZcnt_work] at hvalid ⊢
    exact (hold hvalid).trans (by omega)

/-- A P2 step that replaces a block (R87, R133, R152). -/
theorem BlockInv.block (h : BlockInv s) (hs : atP2Step s) (hv : s.obufRead s.pos = 0b00#2)
    (hz : blockLength s.work.opk ≤ s.work.zcnt.toNat + 1) {s0 : Nat} (hs0 : s.pos + 1 - blockLength s.work.opk = s0)
    {p : LineSymbol} (hp : p ≠ .zero) :
    BlockInv (afterBlock s.running s0 (patternOf s.running s0 (recordOf s.work) p) s) := by
  obtain ⟨hb, hph, hlt⟩ := hs
  have hscan := (h.running hb).scan hph
  have hfits := (h.running hb).fits
  have hcap := h.capHigh
  have hlt' : s.pos < s.work.n.toNat := hlt
  obtain ⟨hend, -, -, hrec⟩ := hscan.block hlt hv hz hs0
  rw [← running_code s] at hend
  have hL : blockLength s.running.code ≠ 0 := by rw [running_code]; exact hscan.kind.ne'
  have hlast := afterBlock_last hL hend (recordOf s.work) hp s
  have hlen := patternOf_length hL s0 (recordOf s.work) p
  generalize patternOf s.running s0 (recordOf s.work) p = pat at hlast hlen ⊢
  have hpos := afterBlock_pos s.running s0 pat hlt' (by omega)
  refine h.scanned ⟨hb, hph, hlt⟩ (h.buffers.afterBlock _ (by omega)) (by simp [afterBlock]) (by simp [afterBlock])
    (by simp [afterBlock]) (by simp [afterBlock]) (by simp [afterBlock]) (by simp [afterBlock]) hpos
    (.after_pulse ?_ ?_ ?_ hpos hlast (afterBlock_record (by omega) hend pat hrec))
  · simpa [afterBlock] using hscan.kind
  · simpa [afterBlock] using symbolsBelow_afterBlock hscan.written s.running s0 pat
  · simp [afterBlock]

/-- A P2 step that raises: in a sound state only NO_PRECEDING can be (R138, R159, R173). -/
theorem BlockInv.raise (h : BlockInv s) (hs : atP2Step s) (hv : s.obufRead s.pos = 0b00#2)
    (hz : blockLength s.work.opk ≤ s.work.zcnt.toNat + 1) {c : Cause} {f : Info}
    (hr : replaceOf s.running (s.pos + 1 - blockLength s.work.opk) (s.setZcnt 0#3) = .raised c f) :
    BlockInv (raiseFault c f (s.setZcnt 0#3)) := by
  obtain ⟨hb, hp, hlt⟩ := hs
  have hscan := (h.running hb).scan hp
  have hcode := running_code s
  obtain ⟨-, hzeros, hprev, -⟩ := hscan.block hlt hv hz rfl
  have hfault : c = .invalidInput ∧ f = .noPreceding := by
    rcases replaceOf_raised (by rw [hcode]; exact hscan.kind.ne') hr with
      ⟨-, hcf⟩ | ⟨h0, hread, -⟩ | ⟨-, ⟨k, hk, hne⟩, -⟩
    · exact hcf
    · obtain ⟨p, hne, hcode'⟩ := hprev h0
      exact absurd (LineSymbol.code_eq_zero.1 (hcode'.symm.trans hread)) hne
    · exact absurd (hzeros k (hcode ▸ hk)) hne
  obtain ⟨rfl, rfl⟩ := hfault
  exact .of_outcomeless (h.buffers.congr rfl rfl rfl) rfl (by simp) (by simp) (h.olen_busy hb)

/-- The end of P2 shows the result (R89). -/
theorem BlockInv.endP2 (h : BlockInv s) (hs : atP2End s) : BlockInv (finishWith s.work.n s) := by
  obtain ⟨hb, hp, -⟩ := hs
  have hrun := h.running hb
  have hfits := hrun.fits
  refine .of_result (h.buffers.congr rfl rfl rfl) (by simp [h.status_busy hb]) ?_ ?_
  · rw [finishWith_olen, finishWith_nMax]; omega
  · exact symbolsBelow_congr (hrun.p2Written hp) rfl

/-- Every event of the running command keeps the invariant. -/
theorem BlockInv.of_commandStep (h : BlockInv s) (ht : CommandStep s.running s t) : BlockInv t := by
  have hcode := running_code s
  cases ht with
  | start => exact h.start _
  | emit _ hs => exact h.emit hs
  | endP1 _ hs => exact h.endP1 hs
  | pulse _ hs hv => exact h.pulse hs hv
  | zero _ hs hv hz => exact h.zero hs hv (hcode ▸ hz)
  | block _ hs hv hz hs0 _ _ hp => exact h.block hs hv (hcode ▸ hz) (hcode ▸ hs0) hp
  | raise _ hs hv hz hr => exact h.raise hs hv (hcode ▸ hz) (hcode ▸ hr)
  | endP2 _ hs => exact h.endP2 hs

/-- Every host access that is answered keeps the invariant. -/
theorem BlockInv.of_access (h : BlockInv s) {a : HostAccess} (ht : serveAccess a s = .next t) : BlockInv t := by
  rcases serveAccess_next ht with ⟨r, rfl⟩ | rfl | ⟨r, v, -, rfl⟩ | ⟨i, b, -, hi, hb, rfl⟩ | ⟨j, -, rfl⟩ | ⟨-, rfl⟩
  case inl => exact h.of_host ..
  case inr.inl => exact h
  case inr.inr.inl =>
    unfold State.writeReg
    split
    · exact h
    · split
      · exact h.of_host ..
      · exact h.of_host ..
      · exact h
  case inr.inr.inr.inl =>
    have hbuf := h.buffers.putBit hi b
    exact ⟨hbuf.capLow, hbuf.capHigh, hbuf.ibufForm, hbuf.obufForm, hbuf.ibufRange, hbuf.obufRange, hbuf.obufCodes,
      h.status, h.olenOnlyDone, h.olenRange, h.resultWritten, fun hb' => absurd (hb.symm.trans hb') (by simp)⟩
  case inr.inr.inr.inr.inl =>
    unfold State.readObuf
    split <;> exact h.of_host ..
  case inr.inr.inr.inr.inr =>
    exact .of_outcomeless (h.buffers.empty rfl rfl rfl) rfl (by simp) (by simp) rfl

end

/-- Settles O6: by the four things a step can be, each along its own rule. -/
theorem everyStepKeepsInv : Obligations.EveryStepKeepsInv := by
  intro s t hinv ht
  rcases step_cases s with ⟨-, r, hs⟩ | ⟨-, r, hs⟩ | ⟨hb, r, -, hs⟩ | ⟨a, r, -, hs⟩ <;> rw [hs] at ht
  all_goals have hrest : BlockInv { s with inputs := r } := hinv.of_host ..
  · exact hrest.of_commandStep (.of_exec ht)
  · cases ht; exact hrest
  · rw [exec_idle s.command (s := { s with inputs := r }) hb] at ht
    cases ht
    exact hrest.start _
  · exact hrest.of_access ht

/-- Settles O7: an event of the encoder is always possible, and a quiet access is answered. -/
theorem soundStatesNeverFault : Obligations.SoundStatesNeverFault := by
  intro s hinv
  rcases step_cases s with ⟨hb, r, hs⟩ | ⟨-, r, hs⟩ | ⟨hb, r, -, hs⟩ | ⟨a, r, hi, hs⟩ <;> rw [hs]
  · have hrest : BlockInv { s with inputs := r } := hinv.of_host ..
    obtain ⟨t, ht⟩ := hrest.commandStep hb
    have hnext : exec s.running { s with inputs := r } = .next t := ht.exec_eq
    simp [hnext]
  · simp
  · simp [exec_idle s.command (s := { s with inputs := r }) hb]
  · refine ⟨serveAccess_ne_fault a _, fun e he => ⟨a, r, hi, ?_, ?_⟩⟩
    · rintro rfl; cases he
    · by_contra hq
      obtain ⟨-, t, ht⟩ := serveAccess_quiet (a := a) (s := { s with inputs := r }) (by simpa using hq)
      simp [ht] at he

/-- Settles O31: the STATUS of a sound state is none of those. -/
theorem internalViolationNeverRecorded : Obligations.InternalViolationNeverRecorded := by
  intro s t hinv ht
  have hreach := (everyStepKeepsInv s t hinv ht).status
  simp only [reachableStatus, Bool.or_eq_true, beq_iff_eq] at hreach
  rcases hreach with (((((h | h) | h) | h) | h) | h) | h <;> simp [h]

end Sys2Proof.Machine

/-! ## START and the steps of pass P1 (R84, R85, 41_simple_nrz.md, 42_bipolar.md, 43_manchester.md)

What every P1 step leaves, for all kinds by `emit`; a kind's own statement then only says what its bit emits. -/

namespace Sys2Proof.Machine

/-- A START that passes the checks answers the state of R84. -/
theorem exec_start_legal {i : Instr} {s : State} (hb : s.busy = false) (hk : i.code.toNat < 9)
    (hl : i.len.toNat ≤ s.nMax) (hne : i.len ≠ 0#32 ∨ needsElement i.code = false) :
    exec i s = .next { s with status := ⟨.busy, .none, .none⟩, olen := 0#32, work := Work.initial i } := by
  have hempty : ¬ (i.len = 0#32 ∧ needsElement i.code = true) := by
    rintro ⟨hzero, hneed⟩
    exact hne.elim (absurd hzero) (by simp [hneed])
  rw [exec_idle i hb, startCommand_begins (by rw [startCheck_fits hk hl, if_neg hempty])]

/-- Settles O11: KIND < 9, LEN fits, and LEN is not 0 where an element is needed; the state is `Work.initial`. -/
theorem startInitialisesOperation : Obligations.StartInitialisesOperation := by
  intro s len hb hl
  have hstart : ∀ i : Instr, namesOperation i = true → i.len = len → (len ≠ 0#32 ∨ needsElement i.code = false) →
      exec i s = .next { s with status := ⟨.busy, .none, .none⟩, olen := 0#32, work := Work.initial i } := by
    rintro i hn rfl hne
    exact exec_start_legal hb ((namesOperation_iff i).1 hn) hl hne
  exact ⟨hstart (.nrz len) rfl rfl (.inr rfl), hstart (.nrzl len) rfl rfl (.inr rfl),
    hstart (.ami len) rfl rfl (.inr rfl), hstart (.pst len) rfl rfl (.inr rfl),
    hstart (.man len) rfl rfl (.inr rfl), fun h0 =>
      ⟨hstart (.nrzi len) rfl rfl (.inl h0), hstart (.dman len) rfl rfl (.inl h0),
        hstart (.b8zs len) rfl rfl (.inl h0), hstart (.hdb3 len) rfl rfl (.inl h0)⟩⟩

/-! ### Every P1 step -/

/-- Where a state reads OBUF as after a pattern write, the pattern's codes stand there. -/
theorem codesAt_putSymbols {s t : State} {j : Nat} {pat : List LineSymbol}
    (h : ∀ k, t.obufRead k = (s.putSymbols j pat).obufRead k) : codesAt t j pat.length = pat.map LineSymbol.code := by
  refine List.ext_getElem (by simp [codesAt]) fun k hk _ => ?_
  have hk' : k < pat.length := by simpa [codesAt] using hk
  simp [codesAt, h, putSymbols_obufRead, hk']

theorem obufSameOutside_putSymbols {s t : State} {j : Nat} {pat : List LineSymbol}
    (h : ∀ k, t.obufRead k = (s.putSymbols j pat).obufRead k) : obufSameOutside s t j pat.length := fun k hk => by
  rw [h, putSymbols_obufRead, if_neg (by omega)]

@[simp] theorem codesAt_one (s : State) (j : Nat) : codesAt s j 1 = [s.obufRead j] := rfl

section
variable {i : Instr} {s : State} {out : List LineSymbol} {pol lvl : Bit}

/-- A P1 step of any kind: the symbols that the bit emits stand behind those of the bits before, POL and LVL are the
next ones, IDX is advanced, and nothing else has changed (R85). -/
theorem p1Step_emits (hn : namesOperation i = true) (hs : atP1Step s)
    (hout : emit i s.pos s.work.pol s.work.lvl (s.ibufRead s.pos) = (out, pol, lvl)) :
    ∃ t, exec i s = .next t ∧ StepFrame s t { s.work with idx := s.work.idx + 1#32, pol := pol, lvl := lvl } ∧
      codesAt t (writtenBy i.code s.pos) out.length = out.map LineSymbol.code ∧
      obufSameOutside s t (writtenBy i.code s.pos) out.length := by
  have hread : ∀ k, (codeBitOf i s).advance.obufRead k =
      (s.putSymbols (writtenBy i.code s.pos) out).obufRead k := fun k => by simp [codeBitOf_eq, hout]
  exact ⟨_, exec_p1_step hn hs,
    ⟨codeBitOf_sameHostSide i s, by simp [codeBitOf_eq], by simp [codeBitOf_eq], by simp [codeBitOf_eq, hout]⟩,
    codesAt_putSymbols hread, obufSameOutside_putSymbols hread⟩

/-- The P1 step of a kind that emits one symbol for each bit. -/
theorem p1Step_emits_one {v : LineSymbol} (hn : namesOperation i = true) (hone : writtenBy i.code s.pos = s.pos)
    (hs : atP1Step s) (hout : emit i s.pos s.work.pol s.work.lvl (s.ibufRead s.pos) = ([v], pol, lvl)) :
    ∃ t, exec i s = .next t ∧ StepFrame s t { s.work with idx := s.work.idx + 1#32, pol := pol, lvl := lvl } ∧
      t.obufRead s.pos = v.code ∧ obufSameOutside s t s.pos 1 := by
  obtain ⟨t, ht, hframe, hcodes, hsame⟩ := p1Step_emits hn hs hout
  rw [hone] at hcodes hsame
  exact ⟨t, ht, hframe, by simpa using hcodes, hsame⟩

end

/-! ### NRZ, NRZ-L, NRZI -/

theorem nrz_code (b : Bit) : (nrz b).code = if b = 1#1 then 0b01#2 else 0b00#2 := by
  unfold nrz; split_ifs <;> rfl

theorem nrzl_code (b : Bit) : (nrzl b).code = if b = 1#1 then 0b11#2 else 0b00#2 := by
  unfold nrzl; split_ifs <;> rfl

theorem nrziSym_code (level : Bit) : (nrziSym level).code = if level = 1#1 then 0b01#2 else 0b00#2 := by
  unfold nrziSym; split_ifs <;> rfl

/-- On a 1 past position 0 the level is complemented (R102). -/
theorem nrziLevel_one {pos : Nat} (h : pos ≠ 0) (lvl : Bit) : nrziLevel pos 1#1 lvl = lvl ^^^ 1#1 := by
  rw [nrziLevel, if_neg h]
  revert lvl; decide

/-- Settles O16: NRZ emits `nrz` of the bit. -/
theorem nrzStepEmitsBit : Obligations.NrzStepEmitsBit := by
  intro len s hs
  obtain ⟨t, ht, hframe, hread, hsame⟩ := p1Step_emits_one (i := .nrz len) rfl rfl hs rfl
  exact ⟨t, ht, hframe, hread.trans (nrz_code _), hsame⟩

/-- Settles O17: NRZ-L emits `nrzl` of the bit. -/
theorem nrzlStepEmitsBit : Obligations.NrzlStepEmitsBit := by
  intro len s hs
  obtain ⟨t, ht, hframe, hread, hsame⟩ := p1Step_emits_one (i := .nrzl len) rfl rfl hs rfl
  exact ⟨t, ht, hframe, hread.trans (nrzl_code _), hsame⟩

/-- Settles O18: NRZI emits `nrziSym` of the level that `nrziLevel` gives. -/
theorem nrziStepTracksLevel : Obligations.NrziStepTracksLevel := by
  intro len s hs
  obtain ⟨t, ht, hframe, hread, hsame⟩ := p1Step_emits_one (i := .nrzi len) rfl rfl hs rfl
  refine ⟨t, nrziLevel s.pos (s.ibufRead s.pos) s.work.lvl, ht, fun h0 => ?first, fun h0 hb => ?hold,
    fun h0 hb => ?invert, hframe, hread.trans (nrziSym_code _), hsame⟩
  case first => simp [nrziLevel, h0]
  case hold => simp [nrziLevel, h0, hb]
  case invert => rw [hb, nrziLevel_one h0]

/-! ### The alternation machine: AMI, B8ZS, HDB3 on the bit 1, Pseudoternary on the bit 0 -/

/-- A P1 step of the alternation machine (R110). -/
theorem pulseStep {i : Instr} {s : State} {active : Bit} (hn : namesOperation i = true)
    (hone : writtenBy i.code s.pos = s.pos) (hs : atP1Step s)
    (hout : emit i s.pos s.work.pol s.work.lvl (s.ibufRead s.pos) =
      ([(pulse (s.ibufRead s.pos == active) s.work.pol).1], (pulse (s.ibufRead s.pos == active) s.work.pol).2,
        s.work.lvl)) :
    ∃ t, exec i s = .next t ∧ obufSameOutside s t s.pos 1 ∧
      (s.ibufRead s.pos ≠ active → t.obufRead s.pos = 0b00#2 ∧
        StepFrame s t { s.work with idx := s.work.idx + 1#32 }) ∧
      (s.ibufRead s.pos = active → s.work.pol = 0#1 → t.obufRead s.pos = 0b01#2 ∧
        StepFrame s t { s.work with idx := s.work.idx + 1#32, pol := 1#1 }) ∧
      (s.ibufRead s.pos = active → s.work.pol = 1#1 → t.obufRead s.pos = 0b11#2 ∧
        StepFrame s t { s.work with idx := s.work.idx + 1#32, pol := 0#1 }) := by
  obtain ⟨t, ht, hframe, hread, hsame⟩ := p1Step_emits_one hn hone hs hout
  refine ⟨t, ht, hsame, fun hb => ?_, fun hb hpol => ?_, fun hb hpol => ?_⟩
  · have hout : pulse (s.ibufRead s.pos == active) s.work.pol = (.zero, s.work.pol) := by simp [pulse, hb]
    rw [hout] at hframe hread
    exact ⟨hread, hframe⟩
  · have hout : pulse (s.ibufRead s.pos == active) s.work.pol = (.plus, 1#1) := by simp [pulse, hb, hpol]
    rw [hout] at hframe hread
    exact ⟨hread, hframe⟩
  · have hout : pulse (s.ibufRead s.pos == active) s.work.pol = (.minus, 0#1) := by simp [pulse, hb, hpol]
    rw [hout] at hframe hread
    exact ⟨hread, hframe⟩

/-- Settles O19: the three kinds run the alternation machine on the bit 1. -/
theorem amiStepAlternatesOnOnes : Obligations.AmiStepAlternatesOnOnes := by
  intro len s i hs hi
  have hkind : namesOperation i = true ∧ writtenBy i.code s.pos = s.pos ∧
      ∀ pol lvl b, emit i s.pos pol lvl b = ([(pulse (b == 1#1) pol).1], (pulse (b == 1#1) pol).2, lvl) := by
    simp only [List.mem_cons, List.not_mem_nil, or_false] at hi
    rcases hi with rfl | rfl | rfl <;> exact ⟨rfl, rfl, fun _ _ _ => rfl⟩
  obtain ⟨hn, hone, hout⟩ := hkind
  obtain ⟨t, ht, hsame, hzero, hpulse⟩ := pulseStep hn hone hs (hout _ _ _)
  exact ⟨t, ht, hsame, fun hb => hzero (by simp [hb]), hpulse⟩

/-- Settles O20: Pseudoternary runs the alternation machine on the bit 0. -/
theorem pstStepAlternatesOnZeros : Obligations.PstStepAlternatesOnZeros := by
  intro len s hs
  obtain ⟨t, ht, hsame, hzero, hpulse⟩ := pulseStep (i := .pst len) (active := 0#1) rfl rfl hs rfl
  exact ⟨t, ht, hsame, fun hb => hzero (by simp [hb]), hpulse⟩

/-! ### The Manchester family -/

theorem man_codes (b : Bit) :
    [(man b).1, (man b).2].map LineSymbol.code = if b = 1#1 then [0b11#2, 0b01#2] else [0b01#2, 0b11#2] := by
  unfold man; split_ifs <;> rfl

/-- Where LVL xor the bit is low, the cycle goes from low to high and leaves LVL high (R121, R122). -/
theorem dman_low {b lvl : Bit} (h : lvl ^^^ b = 0#1) : dman b lvl = ((.minus, .plus), 1#1) := by
  revert b lvl; decide

/-- Where LVL xor the bit is high, the cycle goes from high to low and leaves LVL low (R121, R122). -/
theorem dman_high {b lvl : Bit} (h : lvl ^^^ b = 1#1) : dman b lvl = ((.plus, .minus), 0#1) := by
  revert b lvl; decide

/-- Settles O21: Manchester emits the pair `man` of the bit. -/
theorem manStepWritesCycle : Obligations.ManStepWritesCycle := by
  intro len s hs
  obtain ⟨t, ht, hframe, hcodes, hsame⟩ := p1Step_emits (i := .man len) rfl hs rfl
  exact ⟨t, ht, hframe, hcodes.trans (man_codes _), hsame⟩

/-- Settles O22: Differential Manchester emits the pair `dman` of the bit and the level. -/
theorem dmanStepWritesCycle : Obligations.DmanStepWritesCycle := by
  intro len s hs
  obtain ⟨t, ht, hframe, hcodes, hsame⟩ := p1Step_emits (i := .dman len) rfl hs rfl
  refine ⟨t, ht, hsame, fun hx => ?_, fun hx => ?_⟩
  · rw [dman_low hx] at hframe hcodes
    exact ⟨hcodes, hframe⟩
  · rw [dman_high hx] at hframe hcodes
    exact ⟨hcodes, hframe⟩

/-! ### The ends of P1 and the scan of P2 -/

/-- Settles O23: the end of P1 is `endPassOf`. -/
theorem endOfFirstPass : Obligations.EndOfFirstPass := by
  intro len s hs
  refine ⟨fun i hi => ?_, fun i hi => ?_, fun i hi => ?_⟩ <;>
    simp only [List.mem_cons, List.not_mem_nil, or_false] at hi
  · rcases hi with rfl | rfl | rfl | rfl | rfl <;> exact exec_p1_end rfl hs
  · rcases hi with rfl | rfl <;> exact exec_p1_end rfl hs
  · rcases hi with rfl | rfl <;> exact exec_p1_end rfl hs

/-- Settles O26: the events `pulse` and `zero`. -/
theorem scanCountsZeros : Obligations.ScanCountsZeros := by
  intro len s hs
  have hb8zs : blockLength (Instr.b8zs len).code ≠ 0 := by simp [blockLength_code]
  have hhdb3 : blockLength (Instr.hdb3 len).code ≠ 0 := by simp [blockLength_code]
  refine ⟨fun i hi hv => ?_, fun hv hz => ?_, fun hv hz => ?_⟩
  · simp only [List.mem_cons, List.not_mem_nil, or_false] at hi
    rcases hi with rfl | rfl
    · exact (CommandStep.pulse hb8zs hs hv).exec_eq
    · exact (CommandStep.pulse hhdb3 hs hv).exec_eq
  · exact (CommandStep.zero hb8zs hs hv hz).exec_eq
  · exact (CommandStep.zero hhdb3 hs hv hz).exec_eq

/-- Where a block is completed at index 0, the P2 step raises NO_PRECEDING (R134, R154). -/
theorem exec_leadingBlock {i : Instr} (hL : blockLength i.code ≠ 0) {s : State}
    (hs : atBlockEnd (blockLength i.code) 0 s) :
    exec i s = .next (raiseFault .invalidInput .noPreceding (s.setZcnt 0#3)) := by
  obtain ⟨hstep, hz, hpos, hzeros⟩ := hs
  have hlast : s.obufRead s.pos = 0b00#2 := by
    have hread := hzeros (blockLength i.code - 1) (by omega)
    rwa [show 0 + (blockLength i.code - 1) = s.pos by omega] at hread
  have hstart : s.pos + 1 - blockLength i.code = 0 := by omega
  exact (CommandStep.raise hL hstep hlast hz.ge (by rw [hstart]; exact replaceOf_first hL _)).exec_eq

/-- Settles O29: `exec_leadingBlock` for both kinds. -/
theorem leadingBlockFaults : Obligations.LeadingBlockFaults := by
  intro len s
  exact ⟨exec_leadingBlock (i := .b8zs len) (by simp [blockLength_code]),
    exec_leadingBlock (i := .hdb3 len) (by simp [blockLength_code])⟩

end Sys2Proof.Machine

/-! ## The host's side (20_memory.md R43 to R46, R51; 70_reset_and_hazards.md R190) -/

namespace Sys2Proof.Machine

theorem decode_running {k : BitVec 4} {len : Word} {i : Instr} (h : decode [k.setWidth 32, len] = .ok i) :
    commandOf k len = i := by
  rw [decode_pair, kindField_setWidth] at h
  exact Except.ok.inj h

theorem step_encoderTurn {s : State} {rest : List Input} (hi : s.inputs = .encoderTurn :: rest) :
    step s = if s.busy then exec s.running { s with inputs := rest } else .next { s with inputs := rest } := by
  have hbr : State.busy { s with inputs := rest } = s.busy := rfl
  cases hb : s.busy <;> simp [step, nextEvent, hi, encoderEvent, hbr, hb, State.running]

theorem step_silent {s : State} (hi : s.inputs = []) :
    step s = if s.busy then exec s.running s else .next s := by
  cases hb : s.busy <;> simp [step, nextEvent, hi, encoderEvent, hb]

/-- A host access that is no START, or that comes while BUSY, is served. -/
theorem step_access {s : State} {a : HostAccess} {rest : List Input} (hi : s.inputs = .access a :: rest)
    (ha : (isStart a && !s.busy) = false) : step s = serveAccess a { s with inputs := rest } := by
  simp [step, nextEvent, hi, ha]

/-- Settles O3: by the next entry of the interleaving. -/
theorem stepRunsDecodedCommand : Obligations.StepRunsDecodedCommand := by
  intro s rest i
  refine ⟨fun hs hb hd => ?_, fun hi hb hd => ?_, fun hi hb hd => ?_, fun hi hb => ?_, fun hi hb => ?_,
    fun a hi hno => ?_⟩
  · rw [step_start hs hb, ← decode_running hd]
    exact (exec_idle s.command (s := { s with inputs := rest }) hb).symm
  · rw [step_encoderTurn hi, if_pos hb, ← decode_running hd]; rfl
  · rw [step_silent hi, if_pos hb, ← decode_running hd]; rfl
  · rw [step_encoderTurn hi, hb]; rfl
  · rw [step_silent hi, hb]; rfl
  · refine step_access hi ?_
    by_contra hstart
    obtain ⟨ha, hb⟩ : isStart a = true ∧ s.busy = false := by simpa using hstart
    cases a with
    | regWrite r v =>
      obtain ⟨rfl, hv⟩ : r = 0 ∧ v.getLsbD 0 = true := by simpa [isStart] using ha
      exact hno ⟨hb, v, hv, hi⟩
    | _ => cases ha

theorem withFetchWord_not_busy (s : State) (nbits w : Nat) : (s.withFetchWord nbits w).busy = false := by
  cases hb : s.busy with
  | true => simp [State.withFetchWord, State.busy] at hb ⊢; simp [hb]
  | false => simp [State.withFetchWord, State.busy] at hb ⊢; simp [hb]

/-- Settles O4: the placed START is the next access, and the block is not BUSY. -/
theorem placedWordRunsNext : Obligations.PlacedWordRunsNext := by
  intro s nbits w i h
  have hb := withFetchWord_not_busy s nbits w
  have hcommand : (s.withFetchWord nbits w).command = i := Option.some.inj h
  have hs : startPending (s.withFetchWord nbits w) s.inputs := ⟨1#32, by decide, rfl⟩
  rw [step_start hs hb, hcommand]
  exact (exec_idle i (s := { s.withFetchWord nbits w with inputs := s.inputs }) hb).symm

/-! ### Registers -/

/-- The fields of the STATUS word (R14, R65). -/
theorem status_word_fields (t : Status) :
    t.word.extractLsb' 0 2 = BitVec.ofNat 2 t.st.code ∧ t.word.extractLsb' 2 2 = BitVec.ofNat 2 t.cause.code ∧
    t.word.extractLsb' 4 3 = BitVec.ofNat 3 t.info.code ∧ t.word.extractLsb' 7 25 = 0#25 := by
  obtain ⟨st, c, f⟩ := t
  cases st <;> cases c <;> cases f <;> decide

/-- Settles O35: each read is answered from `regValue`; STATUS by its fields. -/
theorem hostReadsRegisters : Obligations.HostReadsRegisters := by
  intro s
  obtain ⟨hst, hcause, hinfo, hzero⟩ := status_word_fields s.status
  refine ⟨rfl, rfl, rfl, ⟨s.status.word, rfl, ?_, ?_, ?_, hzero⟩, rfl⟩
  · rw [hst]; cases s.status.st <;> rfl
  · rw [hcause]; cases s.status.cause <;> rfl
  · rw [hinfo]; cases s.status.info <;> rfl

/-- Outside BUSY a register write that is no START is served by `writeReg`. -/
theorem step_writeReg {s : State} {r : Nat} {v : Word} {rest : List Input}
    (hi : s.inputs = .access (.regWrite r v) :: rest) (hr : r ≤ 4) (hno : (r == 0 && v.getLsbD 0) = false) :
    step s = .next (State.writeReg { s with inputs := rest } r v) := by
  rw [step_access hi (by rw [isStart, hno]; rfl), serveAccess, if_pos hr]

section
variable {s : State} (hb : s.busy = false) (v : Word)
include hb

theorem writeReg_kind : s.writeReg 1 v = { s with kind := v.extractLsb' 0 4 } := by
  simp [State.writeReg, hb, BitVec.setWidth_eq_extractLsb']

theorem writeReg_len : s.writeReg 2 v = { s with len := v } := by
  simp [State.writeReg, hb]

theorem writeReg_other {r : Nat} (h1 : r ≠ 1) (h2 : r ≠ 2) : s.writeReg r v = s := by
  simp [State.writeReg, hb]

end

/-- Settles O36: by `writeReg`, register by register. -/
theorem hostWritesRegisters : Obligations.HostWritesRegisters := by
  intro s rest v hb
  have hbr : State.busy { s with inputs := rest } = false := hb
  refine ⟨fun hi => ?_, fun hi => ?_, fun hi hv => ?_, fun hi => ?_, fun hi => ?_⟩
  · rw [step_writeReg hi (by decide) rfl, writeReg_kind hbr]
  · rw [step_writeReg hi (by decide) rfl, writeReg_len hbr]
  · rw [step_writeReg hi (by decide) (by simp only [hv, Bool.and_false]), writeReg_other hbr v (by decide) (by decide)]
  · rw [step_writeReg hi (by decide) rfl, writeReg_other hbr v (by decide) (by decide)]
  · rw [step_writeReg hi (by decide) rfl, writeReg_other hbr v (by decide) (by decide)]

/-- Settles O37: the word of each reachable STATUS. -/
theorem statusWordsHostCanRead : Obligations.StatusWordsHostCanRead := by
  intro s t v hinv hread ht
  have hread' : serveAccess (.regRead 3) s = .next (s.reply (.reg s.status.word)) := rfl
  have hv : v = s.status.word := by
    have hsame : s.reply (.reg s.status.word) = s.reply (.reg v) :=
      (Host.Outcome.next.inj (hread'.symm.trans hread)).trans ht
    have hreplies := congrArg State.replies hsame
    simp only [reply_replies, List.append_cancel_left_eq, List.cons.injEq, Reply.reg.injEq, and_true] at hreplies
    exact hreplies.symm
  have hreach := hinv.status
  simp only [reachableStatus, Bool.or_eq_true, beq_iff_eq] at hreach
  rw [hv]
  rcases hreach with (((((h | h) | h) | h) | h) | h) | h <;> rw [h] <;> decide

/-! ### Buffers -/

/-- Settles O38: a write stores its bit and nothing else, by the laws of the buffer. -/
theorem ibufHoldsWhatHostWrote : Obligations.IbufHoldsWhatHostWrote := by
  intro s i b hi
  have hwrite : serveAccess (.ibufWrite i b) s = .next (if s.busy then s else s.putBit i b) := if_pos hi
  refine ⟨fun hb => ⟨s.putBit i b, ?_, ?_, fun j hj => ?_, rfl, ?_⟩, fun hb => ?_, if_pos hi⟩
  · rw [hwrite, hb]; rfl
  · rw [putBit_ibufRead, if_pos rfl]
  · rw [putBit_ibufRead, if_neg hj]
  · have hread : (s.putBit i b).ibufRead i = b := by rw [putBit_ibufRead, if_pos rfl]
    rw [serveAccess, putBit_nMax, if_pos hi, hread]
  · rw [hwrite, if_pos hb]

theorem obufValid_iff (s : State) (j : Nat) : s.obufValid j = true ↔ s.status.st = .done ∧ j < s.olen.toNat := by
  simp [State.obufValid]

/-- Settles O39: a read is of the result exactly where `obufValid` says so. -/
theorem obufReadableOnlyInResult : Obligations.ObufReadableOnlyInResult := by
  intro s j hj
  have hread : serveAccess (.obufRead j) s = .next (s.readObuf j) := if_pos hj
  refine ⟨fun hv => ?_, fun hv => ?_, fun c => if_pos hj⟩
  · rw [hread, State.readObuf, if_pos ((obufValid_iff s j).2 hv)]
  · rw [hread, State.readObuf, if_neg fun h => hv ((obufValid_iff s j).1 h)]

/-- Settles O40: the range tests of `serveAccess`. -/
theorem outOfRangeAccessesRefused : Obligations.OutOfRangeAccessesRefused := by
  refine ⟨fun s r v hr => ⟨?_, if_neg (Nat.not_le.2 hr)⟩,
    fun s i b hi => ⟨if_neg (Nat.not_lt.2 hi), if_neg (Nat.not_lt.2 hi)⟩,
    fun s j c hj => ⟨if_neg (Nat.not_lt.2 hj), if_neg (Nat.not_lt.2 hj)⟩⟩
  obtain ⟨n, rfl⟩ : ∃ n, r = n + 5 := ⟨r - 5, by omega⟩
  rfl

/-! ### Reset and faults -/

/-- The capacity of the block is in the range of R5. -/
theorem config_nMax_range : 1 ≤ Config.nMax ∧ Config.nMax ≤ 2147483647 := by
  have := Config.capacitySlack.isLt
  unfold Config.nMax
  omega

/-- Settles O41: by `State.afterReset` and the range of N_MAX. -/
theorem resetValues : Obligations.ResetValues := by
  obtain ⟨hlow, hhigh⟩ := config_nMax_range
  exact ⟨rfl, rfl, rfl, rfl, hlow, hhigh⟩

/-- Settles O5: after reset the buffers are empty, and STATUS shows nothing. -/
theorem invHoldsAtReset : Obligations.InvHoldsAtReset := by
  obtain ⟨hlow, hhigh⟩ := config_nMax_range
  obtain ⟨hibuf, hobuf⟩ := reset_wf
  exact .of_outcomeless ⟨hlow, hhigh, hibuf, hobuf, by simp [State.reset, State.afterReset],
    by simp [State.reset, State.afterReset], by simp [State.reset, State.afterReset]⟩ rfl (by decide) (by decide) rfl

/-- Settles O42: a RESET is no START, so it is served, BUSY or not. -/
theorem resetEventClearsBlock : Obligations.ResetEventClearsBlock := by
  intro s rest hi
  exact ⟨_, step_access hi rfl, rfl, rfl, rfl, rfl, rfl, fun _ => rfl, fun _ => rfl, rfl, rfl, rfl, rfl⟩

/-- Settles O43: after a fault the encoder is silent, and START's checks decide on the next state. -/
theorem faultEntryAndRecovery : Obligations.FaultEntryAndRecovery := by
  refine ⟨fun c i s => rfl, fun s hst hi => ?_, fun i s hst => ?_⟩
  · have hb : s.busy = false := by simp [State.busy, hst]
    rw [step_silent hi, hb]; rfl
  · have hb : s.busy = false := by simp [State.busy, hst]
    refine ⟨_, exec_idle i hb, fun hwf => ?_, fun hwf => ?_⟩
    · rw [startCommand_begins ((startCheck_eq_none _ _).2 hwf)]
    · cases hc : startCheck s.nMax i with
      | none => simp [(startCheck_eq_none _ _).1 hc] at hwf
      | some f => rw [startCommand_raises hc]; exact ⟨rfl, rfl, rfl⟩

end Sys2Proof.Machine

/-! ## The pulses of AMI and Pseudoternary (R110 to R113) -/

namespace Sys2Proof.Machine

theorem pulse_active {pol : Bit} : (pulse true pol).1 ≠ .zero := by revert pol; decide

/-- The next pulse has the opposite sign (R110). -/
theorem pulse_alternates (pol : Bit) : (pulse true (pulse true pol).2).1 = (pulse true pol).1.neg := by
  revert pol; decide

theorem pulse_inactive (pol : Bit) : pulse false pol = (.zero, pol) := rfl

theorem pulseSeq_active (active pol : Bit) (rest : List Bit) :
    pulseSeq active pol (active :: rest) = (pulse true pol).1 :: pulseSeq active (pulse true pol).2 rest := by
  simp [pulseSeq]

theorem pulseSeq_inactive {active b : Bit} (h : b ≠ active) (pol : Bit) (rest : List Bit) :
    pulseSeq active pol (b :: rest) = .zero :: pulseSeq active pol rest := by
  have hb : (b == active) = false := by simpa using h
  simp [pulseSeq, hb, pulse_inactive]

/-- The pulses stand exactly at the active bits. -/
theorem pulseSeq_nonzero_iff {active pol : Bit} {bits : List Bit} {j : Nat} (hj : j < bits.length) :
    symAt (pulseSeq active pol bits) j ≠ .zero ↔ bits.getD j 0#1 = active := by
  induction bits generalizing pol j with
  | nil => cases hj
  | cons b rest ih =>
    by_cases hb : b = active
    · subst hb
      rw [pulseSeq_active]
      cases j with
      | zero => exact iff_of_true pulse_active rfl
      | succ j => exact ih (Nat.lt_of_succ_lt_succ hj)
    · rw [pulseSeq_inactive hb]
      cases j with
      | zero => exact iff_of_false (not_not.2 rfl) hb
      | succ j => exact ih (Nat.lt_of_succ_lt_succ hj)

/-- The first pulse has the sign that POL names. -/
theorem pulseSeq_first {active pol : Bit} {bits : List Bit} {j : Nat}
    (hj : symAt (pulseSeq active pol bits) j ≠ .zero)
    (hzero : ∀ m, m < j → symAt (pulseSeq active pol bits) m = .zero) :
    symAt (pulseSeq active pol bits) j = (pulse true pol).1 := by
  induction bits generalizing j with
  | nil => exact absurd (by simp [pulseSeq, symAt]) hj
  | cons b rest ih =>
    by_cases hb : b = active
    · subst hb
      rw [pulseSeq_active] at hzero ⊢
      cases j with
      | zero => rfl
      | succ j => exact absurd (hzero 0 (Nat.succ_pos j)) pulse_active
    · rw [pulseSeq_inactive hb] at hj hzero ⊢
      cases j with
      | zero => exact absurd rfl hj
      | succ j => exact ih hj fun m hm => hzero (m + 1) (Nat.succ_lt_succ hm)

/-- The bipolarity law (R113): behind a pulse, POL names the opposite sign for the first one that follows. -/
theorem pulseSeq_alternates (active pol : Bit) (bits : List Bit) : alternates (pulseSeq active pol bits) := by
  intro i j hij hj hi hne hzero
  induction bits generalizing pol i j with
  | nil => simp [pulseSeq] at hj
  | cons b rest ih =>
    obtain ⟨j, rfl⟩ := Nat.exists_eq_succ_of_ne_zero (Nat.ne_zero_of_lt hij)
    have hzero' : ∀ m, i < m + 1 → m < j → symAt (pulseSeq active pol (b :: rest)) (m + 1) = .zero :=
      fun m h1 h2 => hzero (m + 1) h1 (Nat.succ_lt_succ h2)
    cases i with
    | zero =>
      have hb : b = active := (pulseSeq_nonzero_iff (bits := b :: rest) (j := 0) (Nat.succ_pos _)).1 hi
      subst hb
      rw [pulseSeq_active] at hne hzero' ⊢
      exact (pulseSeq_first hne fun m hm => hzero' m (Nat.succ_pos m) hm).trans (pulse_alternates pol)
    | succ i =>
      exact ih _ i j (Nat.lt_of_succ_lt_succ hij) (Nat.lt_of_succ_lt_succ hj) hi hne
        fun m h1 h2 => hzero' m (Nat.succ_lt_succ h1) h2

/-- Settles O45: both are `pulseSeq`, on the bit 1 and on the bit 0. -/
theorem bipolarPulsesAlternate : Obligations.BipolarPulsesAlternate := by
  intro cap bits q
  refine ⟨fun h => ?_, fun h => ?_⟩
  · obtain rfl : pulseSeq 1#1 0#1 bits = q := Except.ok.inj (encodeFrame_ok h)
    exact ⟨fun _ hi => pulseSeq_nonzero_iff hi, pulseSeq_alternates 1#1 0#1 bits⟩
  · obtain rfl : pulseSeq 0#1 0#1 bits = q := Except.ok.inj (encodeFrame_ok h)
    exact ⟨fun _ hi => pulseSeq_nonzero_iff hi, pulseSeq_alternates 0#1 0#1 bits⟩

/-- The pulses on the bit 0 are those on the bit 1 of the complement (R112). -/
theorem pulseSeq_not1 (pol : Bit) (bits : List Bit) : pulseSeq 0#1 pol bits = pulseSeq 1#1 pol (bits.map not1) := by
  induction bits generalizing pol with
  | nil => rfl
  | cons b rest ih =>
    have hb : (not1 b == 1#1) = (b == 0#1) := by revert b; decide
    simp [pulseSeq, hb, ih]

/-- Settles O46: the checks see the length alone, and the sequences agree by `pulseSeq_not1`. -/
theorem pstIsAmiOfComplement : Obligations.PstIsAmiOfComplement := by
  intro cap bits
  have hcheck : encodeCheck cap 4#4 bits.length = encodeCheck cap 3#4 (bits.map not1).length := by
    rw [List.length_map]; rfl
  have hbits : encodeBits 4#4 bits = encodeBits 3#4 (bits.map not1) := congrArg Except.ok (pulseSeq_not1 0#1 bits)
  rw [encodeFrame, encodeFrame, hcheck, hbits]

end Sys2Proof.Machine

/-! ## The scan of encode over zeros (R87, R88, R95)

When it faults, and what it makes of a run of zeros behind a pulse. -/

namespace Sys2Proof.Machine

/-- A frame of 1 to N_MAX bits passes the checks. -/
theorem encodeFrame_fits {cap : Nat} {k : BitVec 4} {bits : List Bit} (hk : k.toNat < 9) (h0 : 0 < bits.length)
    (hcap : bits.length ≤ cap) : encodeFrame cap k bits = encodeBits k bits := by
  rw [encodeFrame, encodeCheck, if_neg (Nat.not_le.2 hk), if_neg (Nat.not_lt.2 hcap), if_neg (fun h => h0.ne' h.1)]

/-! ### When the scan faults -/

/-- The scan faults exactly where the zeros counted so far began at index 0 and go on to a full block. -/
theorem substScan_error_iff {i : Instr} {rest pos z : Nat} {r : Option Nat} {q : List LineSymbol} {f : OpFault}
    (hz : z < blockLength i.code) (hbound : z ≤ pos) (hn : pos + rest = q.length) :
    substScan (blockLength i.code) (replaceFnOf i) rest pos z r q = .error f ↔
      f = (.invalidInput, .noPreceding) ∧ z = pos ∧ blockLength i.code ≤ q.length ∧
        ∀ j, pos ≤ j → j < blockLength i.code → symAt q j = .zero := by
  have hL : blockLength i.code ≠ 0 := Nat.ne_zero_of_lt hz
  induction rest generalizing pos z r q with
  | zero =>
    refine iff_of_false (by simp [substScan]) ?_
    rintro ⟨-, rfl, hlen, -⟩
    omega
  | succ rest ih =>
    rw [substScan]
    by_cases hv : symAt q pos = .zero
    · rw [if_neg (not_not.2 hv)]
      by_cases hshort : z + 1 < blockLength i.code
      · rw [if_pos hshort]
        refine (ih (pos := pos + 1) (q := q) hshort (by omega) (by omega)).trans ?_
        have hhere : (∀ j, pos + 1 ≤ j → j < blockLength i.code → symAt q j = .zero) ↔
            ∀ j, pos ≤ j → j < blockLength i.code → symAt q j = .zero :=
          ⟨fun h j h1 h2 => (Nat.eq_or_lt_of_le h1).elim (fun heq => heq ▸ hv) fun hlt => h j hlt h2,
            fun h j h1 h2 => h j (by omega) h2⟩
        rw [hhere, Nat.add_right_cancel_iff]
      · rw [if_neg hshort]
        by_cases h0 : pos + 1 - blockLength i.code = 0
        · have hpos : z = pos := by omega
          have hrest : ∀ j, pos ≤ j → j < blockLength i.code → symAt q j = .zero := fun j h1 h2 => by
            rwa [show j = pos by omega]
          simp only [replaceFnOf, if_pos h0, Except.error.injEq]
          exact ⟨fun h => ⟨h.symm, hpos, by omega, hrest⟩, fun h => h.1.symm⟩
        · have hfit : pos + 1 - blockLength i.code + blockLength i.code = pos + 1 := by omega
          simp only [replaceFnOf, if_neg h0]
          have hlen : (overwrite q (pos + 1 - blockLength i.code) (patternOf i (pos + 1 - blockLength i.code) r
              (symAt q (pos + 1 - blockLength i.code - 1)))).length = q.length :=
            overwrite_length (by rw [patternOf_length hL]; omega)
          refine (ih (pos := pos + 1) (z := 0) (Nat.pos_of_ne_zero hL) (Nat.zero_le _) (by rw [hlen]; omega)).trans ?_
          exact iff_of_false (fun h => by omega) (fun h => by omega)
    · rw [if_pos hv]
      refine (ih (pos := pos + 1) (q := q) (Nat.pos_of_ne_zero hL) (Nat.zero_le _) (by omega)).trans ?_
      refine iff_of_false (fun h => by omega) ?_
      rintro ⟨-, rfl, -, hall⟩
      exact hv (hall _ le_rfl hz)

theorem take_eq_replicate_iff {bits : List Bit} {L : Nat} :
    bits.take L = List.replicate L 0#1 ↔ L ≤ bits.length ∧ ∀ j, j < L → bits.getD j 0#1 = 0#1 := by
  constructor
  · intro h
    have hlen : L ≤ bits.length := by simpa using congrArg List.length h
    refine ⟨hlen, fun j hj => ?_⟩
    have hget := congrArg (fun l => l.getD j 0#1) h
    simpa [hj] using hget
  · rintro ⟨hlen, hall⟩
    refine List.ext_getElem (by simpa using hlen) fun j h1 h2 => ?_
    have hj : j < L := by simpa using h2
    have hget := hall j hj
    rw [List.getD_eq_getElem _ _ (by omega)] at hget
    simpa using hget

/-- `encode` of a kind with a substitution pass faults exactly on a leading full block of zero bits. -/
theorem encodeFrame_error_iff {i : Instr} (hL : blockLength i.code ≠ 0) {cap : Nat} {bits : List Bit}
    (h0 : 0 < bits.length) (hcap : bits.length ≤ cap) (f : OpFault) :
    encodeFrame cap i.code bits = .error f ↔
      f = (.invalidInput, .noPreceding) ∧
        bits.take (blockLength i.code) = List.replicate (blockLength i.code) 0#1 := by
  have hkind : namesOperation i = true ∧ emitted i 0 0#1 0#1 bits = amiSeq bits := by
    cases i with
    | b8zs len | hdb3 len => exact ⟨rfl, emitted_pulse (fun _ _ _ _ => rfl) ..⟩
    | _ => exact absurd rfl hL
  obtain ⟨hn, hami⟩ := hkind
  have hlen : (amiSeq bits).length = bits.length := by
    rw [← hami, emitted_length hn, writtenBy_of_block hL]
  rw [encodeFrame_fits ((namesOperation_iff i).1 hn) h0 hcap, encodeBits_eq hn, hami, afterP1, if_neg hL, substitute,
    substScan_error_iff (Nat.pos_of_ne_zero hL) le_rfl (Nat.zero_add _), hlen, take_eq_replicate_iff]
  have hzero : ∀ {j}, j < bits.length → (symAt (amiSeq bits) j = .zero ↔ bits.getD j 0#1 = 0#1) := fun {j} hj => by
    have hone : bits.getD j 0#1 = 0#1 ↔ bits.getD j 0#1 ≠ 1#1 := by
      generalize bits.getD j 0#1 = b
      revert b; decide
    rw [hone, ← not_iff_not, not_not, amiSeq]
    exact pulseSeq_nonzero_iff hj
  constructor
  · rintro ⟨hf, -, hfull, hall⟩
    exact ⟨hf, hfull, fun j hj => (hzero (hj.trans_le hfull)).1 (hall j (Nat.zero_le j) hj)⟩
  · rintro ⟨hf, hfull, hall⟩
    exact ⟨hf, rfl, hfull, fun j _ hj => (hzero (hj.trans_le hfull)).2 (hall j hj)⟩

/-- Settles O48: `encodeFrame_error_iff` for both kinds. -/
theorem leadingZerosFaultExactly : Obligations.LeadingZerosFaultExactly := by
  intro cap bits h0 hcap
  exact ⟨encodeFrame_error_iff (i := .b8zs 0#32) (by simp [blockLength_code]) h0 hcap,
    encodeFrame_error_iff (i := .hdb3 0#32) (by simp [blockLength_code]) h0 hcap⟩

/-! ### A run of zeros behind a pulse -/

section
variable {ρ : Type} {L : Nat} {replace : ReplaceFn ρ} {pos : Nat} {r r' : ρ} {q q' : List LineSymbol}

/-- Zeros too few for a block are counted. -/
theorem substScan_count (k : Nat) {rest z : Nat} (hz : z + k < L)
    (hq : ∀ j, pos ≤ j → j < pos + k → symAt q j = .zero) :
    substScan L replace (rest + k) pos z r q = substScan L replace rest (pos + k) (z + k) r q := by
  induction k generalizing pos z with
  | zero => rfl
  | succ k ih =>
    rw [← Nat.add_assoc rest, substScan, if_neg (not_not.2 (hq pos le_rfl (by omega))), if_pos (by omega),
      ih (by omega) fun j h1 h2 => hq j (by omega) (by omega), Nat.add_right_comm pos, Nat.add_right_comm z]
    rfl

/-- A full block of zeros is replaced, and the count begins anew behind it (R88). -/
theorem substScan_block {rest : Nat} (hL : 0 < L) (hq : ∀ j, pos ≤ j → j < pos + L → symAt q j = .zero)
    (hr : replace pos r q = .ok (r', q')) :
    substScan L replace (rest + L) pos 0 r q = substScan L replace rest (pos + L) 0 r' q' := by
  obtain ⟨k, rfl⟩ : ∃ k, L = k + 1 := ⟨L - 1, by omega⟩
  rw [show rest + (k + 1) = rest + 1 + k by omega,
    substScan_count k (by omega) fun j h1 h2 => hq j h1 (by omega), substScan,
    if_neg (not_not.2 (hq _ (by omega) (by omega))), if_neg (by omega), Nat.add_assoc pos k 1, Nat.add_sub_cancel, hr]

/-- At the end of the sequence the zeros left over stay. -/
theorem substScan_tail {m : Nat} (hm : m < L) (hq : ∀ j, pos ≤ j → j < pos + m → symAt q j = .zero) :
    substScan L replace m pos 0 r q = .ok q := by
  have hcount := substScan_count (L := L) (replace := replace) (r := r) m (rest := 0) (z := 0) (by omega) hq
  rwa [Nat.zero_add] at hcount

end

section
variable {pre : List LineSymbol} {p : LineSymbol}

/-- The symbol before the zeros is the last one of what stands before them. -/
theorem symAt_before (h : pre.getLast? = some p) (q : List LineSymbol) :
    pre.length ≠ 0 ∧ symAt (pre ++ q) (pre.length - 1) = p := by
  have hne : pre.length ≠ 0 := by
    intro h0
    simp [List.length_eq_zero_iff.1 h0] at h
  rw [List.getLast?_eq_getElem?] at h
  refine ⟨hne, ?_⟩
  rw [symAt, List.getD_append _ _ _ _ (by omega), List.getD_eq_getElem?_getD, h]
  rfl

theorem symAt_zeros (pre : List LineSymbol) (m : Nat) {j : Nat} (hj : pre.length ≤ j) :
    symAt (pre ++ List.replicate m LineSymbol.zero) j = .zero := by
  rw [symAt, List.getD_append_right _ _ _ _ hj]
  by_cases hm : j - pre.length < m <;> simp [hm]

/-- A pattern written over the first of the zeros. -/
theorem overwrite_zeros (pre pat : List LineSymbol) (m : Nat) :
    overwrite (pre ++ List.replicate (m + pat.length) LineSymbol.zero) pre.length pat =
      pre ++ pat ++ List.replicate m LineSymbol.zero := by
  simp [overwrite]

/-- Behind a pulse, B8ZS fills zeros with patterns of that pulse, each of which ends in it (R136). -/
theorem b8zs_fills (h : pre.getLast? = some p) (m : Nat) :
    substScan 8 b8zsReplaceFn m pre.length 0 () (pre ++ List.replicate m LineSymbol.zero) =
      .ok (pre ++ (List.replicate (m / 8) (b8zsPattern p)).flatten ++ List.replicate (m % 8) LineSymbol.zero) := by
  induction m using Nat.strong_induction_on generalizing pre with
  | _ m ih =>
    rcases Nat.lt_or_ge m 8 with hlt | hge
    · rw [substScan_tail hlt fun j h1 _ => symAt_zeros pre m h1, Nat.div_eq_of_lt hlt, Nat.mod_eq_of_lt hlt]
      simp
    · obtain ⟨m, rfl⟩ : ∃ k, m = k + 8 := ⟨m - 8, by omega⟩
      obtain ⟨hne, hprev⟩ := symAt_before h (List.replicate (m + 8) LineSymbol.zero)
      have hreplace : b8zsReplaceFn pre.length () (pre ++ List.replicate (m + 8) LineSymbol.zero) =
          .ok ((), pre ++ b8zsPattern p ++ List.replicate m LineSymbol.zero) := by
        rw [b8zsReplaceFn, if_neg hne, hprev]
        exact congrArg _ (congrArg _ (overwrite_zeros pre (b8zsPattern p) m))
      have hlen : pre.length + 8 = (pre ++ b8zsPattern p).length := by simp
      rw [substScan_block (by decide) (fun j h1 _ => symAt_zeros pre _ h1) hreplace, hlen,
        ih m (by omega) (by simp [b8zsPattern]), Nat.add_div_right m (by decide), Nat.add_mod_right,
        List.replicate_succ, List.flatten_cons]
      simp

/-- `k` runs B00V laid end to end behind the pulse `p`: their pulses alternate (R156, R161). -/
def evenRuns (p : LineSymbol) (k : Nat) : List LineSymbol :=
  ((List.range k).map fun r =>
    if r % 2 = 0 then [p.neg, .zero, .zero, p.neg] else [p, .zero, .zero, p]).flatten

theorem neg_neg_symbol (p : LineSymbol) : p.neg.neg = p := by cases p <;> rfl

theorem evenRuns_succ (p : LineSymbol) (k : Nat) :
    evenRuns p (k + 1) = hdb3Pattern .even p ++ evenRuns p.neg k := by
  have hparity : ∀ r, ((r + 1) % 2 = 0 ↔ ¬ r % 2 = 0) := fun r => by omega
  simp only [evenRuns, List.range_succ_eq_map, List.map_cons, List.flatten_cons, List.map_map]
  congr 3
  funext r
  simp only [Function.comp, Nat.succ_eq_add_one, hparity, ite_not, neg_neg_symbol]

/-- Behind a run that has just been resolved the gap is 0, so HDB3 fills zeros with EVEN runs (R153, R161). -/
theorem hdb3_fills (h : pre.getLast? = some p) {s0 : Nat} (hs0 : s0 + 4 = pre.length) (m : Nat) :
    substScan 4 hdb3ReplaceFn m pre.length 0 (some s0) (pre ++ List.replicate m LineSymbol.zero) =
      .ok (pre ++ evenRuns p (m / 4) ++ List.replicate (m % 4) LineSymbol.zero) := by
  induction m using Nat.strong_induction_on generalizing pre p s0 with
  | _ m ih =>
    rcases Nat.lt_or_ge m 4 with hlt | hge
    · rw [substScan_tail hlt fun j h1 _ => symAt_zeros pre m h1, Nat.div_eq_of_lt hlt, Nat.mod_eq_of_lt hlt]
      simp [evenRuns]
    · obtain ⟨m, rfl⟩ : ∃ k, m = k + 4 := ⟨m - 4, by omega⟩
      obtain ⟨hne, hprev⟩ := symAt_before h (List.replicate (m + 4) LineSymbol.zero)
      have heven : classify pre.length true s0 = .even := by
        have hgap : hdb3Gap pre.length s0 = 0 := by unfold hdb3Gap; omega
        simp [classify, hgap, parityOf]
      have hreplace : hdb3ReplaceFn pre.length (some s0) (pre ++ List.replicate (m + 4) LineSymbol.zero) =
          .ok (some pre.length, pre ++ hdb3Pattern .even p ++ List.replicate m LineSymbol.zero) := by
        rw [hdb3ReplaceFn, if_neg hne, hprev]
        simp only [Option.isSome_some, Option.getD_some, heven]
        exact congrArg _ (congrArg _ (overwrite_zeros pre (hdb3Pattern .even p) m))
      have hlen : pre.length + 4 = (pre ++ hdb3Pattern .even p).length := by simp
      rw [substScan_block (by decide) (fun j h1 _ => symAt_zeros pre _ h1) hreplace, hlen,
        ih m (by omega) (p := p.neg) (by simp [hdb3Pattern]) hlen, Nat.add_div_right m (by decide), Nat.add_mod_right,
        evenRuns_succ]
      simp

end

/-- AMI on a 1 and zeros. -/
theorem amiSeq_one_zeros (n : Nat) :
    amiSeq (1#1 :: List.replicate n 0#1) = [LineSymbol.plus] ++ List.replicate n LineSymbol.zero := by
  have hzeros : pulseSeq 1#1 1#1 (List.replicate n 0#1) = List.replicate n LineSymbol.zero := by
    induction n with
    | zero => rfl
    | succ n ih => rw [List.replicate_succ, pulseSeq_inactive (by decide), ih, List.replicate_succ]
  rw [amiSeq, pulseSeq_active]
  exact congrArg _ hzeros

/-- The scan steps past a first pulse. -/
theorem substitute_after_pulse {ρ : Type} {L : Nat} {replace : ReplaceFn ρ} {r : ρ} (n : Nat) :
    substitute L replace r ([LineSymbol.plus] ++ List.replicate n LineSymbol.zero) =
      substScan L replace n 1 0 r ([LineSymbol.plus] ++ List.replicate n LineSymbol.zero) := by
  rw [substitute, show ([LineSymbol.plus] ++ List.replicate n LineSymbol.zero).length = n + 1 by simp, substScan]
  exact if_pos LineSymbol.noConfusion

/-- Settles O49: behind the first pulse, `b8zs_fills`. -/
theorem b8zsFillsZeroRun : Obligations.B8zsFillsZeroRun := by
  intro cap z hcap
  rw [encodeFrame_fits (by decide) (by simp) (by simpa using hcap)]
  change substitute 8 b8zsReplaceFn () (amiSeq _) = _
  rw [amiSeq_one_zeros, substitute_after_pulse]
  exact b8zs_fills (pre := [LineSymbol.plus]) rfl z

/-- Settles O50: the first run is at index 1, so ODD; behind it, `hdb3_fills`. -/
theorem hdb3FillsZeroRun : Obligations.Hdb3FillsZeroRun := by
  intro cap z hcap
  rw [encodeFrame_fits (by decide) (by simp) (by simp; omega)]
  change substitute 4 hdb3ReplaceFn none (amiSeq _) = _
  have hfirst : hdb3ReplaceFn 1 none ([LineSymbol.plus] ++ List.replicate (z + 4) LineSymbol.zero) =
      .ok (some 1, [LineSymbol.plus] ++ hdb3Pattern .odd .plus ++ List.replicate z LineSymbol.zero) :=
    congrArg _ (congrArg _ (overwrite_zeros [LineSymbol.plus] (hdb3Pattern .odd .plus) z))
  have hrun := substScan_block (rest := z) (L := 4) (by decide)
    (fun j h1 _ => symAt_zeros [LineSymbol.plus] (z + 4) h1) hfirst
  have hrest := hdb3_fills (pre := [LineSymbol.plus] ++ hdb3Pattern .odd .plus) (p := LineSymbol.plus) (s0 := 1)
    rfl rfl z
  rw [amiSeq_one_zeros, substitute_after_pulse, Nat.add_comm 4 z]
  exact hrun.trans hrest

end Sys2Proof.Machine
